-- ==== Sys2Proof/Word.lean ====
section
/-! DEFINITION. The bit vectors of the engine, each at the width the spec gives it. -/

namespace Sys2Proof

/-- A command word `cmd[17:0]` (30_encoding.md R57). -/
abbrev Word := BitVec 18

/-- A byte: a FIFO slot, the operand of ENQ, the receive holding register (00_scope.md R6, `BYTEW`). -/
abbrev Byte := BitVec 8

/-- A configuration word (30_encoding.md R60). -/
abbrev ConfigWord := BitVec 16

/-- The content of a shift register (00_scope.md R6, `FRAMEW`); bit `i` is the level of tick `i` (10_state.md R14, R16). -/
abbrev FrameBits := BitVec 12

/-- A FIFO slot index (00_scope.md R6, `IDXW`). -/
abbrev SlotIndex := BitVec 4

/-- A frame position counter (10_state.md R15, R17). -/
abbrev Position := BitVec 4

/-- A receive status: bit 0 `parity_error`, bit 1 `framing_error` (30_encoding.md R72). -/
abbrev Status := BitVec 2

/-- The logical level of a line, one bit (00_scope.md R11). -/
abbrev Level := Bool

/-- Level 1, the idle level (00_scope.md R11). -/
abbrev mark : Level := true

/-- Level 0 (00_scope.md R11). -/
abbrev space : Level := false

end Sys2Proof
end

