-- ==== Sys2Proof/Config.lean ====
section
/-! DEFINITION. What is fixed for this hardware: the value sets of the selections (30_encoding.md R61), the parameters of
00_scope.md R6 that State needs, and the free values, constants without a body of which nothing can be known.
`BAUD_TABLE` and `STOP_TICKS` stand in Machine/Operands.lean and Machine/Frame.lean. -/

namespace Sys2Proof

/-- The one start-bit count (30_encoding.md R61). -/
inductive StartBits where
  | one
  deriving DecidableEq, Repr, Inhabited

/-- The data-bit counts (30_encoding.md R61). -/
inductive DataBits where
  | five | six | seven | eight
  deriving DecidableEq, Repr, Inhabited

/-- The parity modes (30_encoding.md R61). -/
inductive Parity where
  | none | odd | even | mark | space
  deriving DecidableEq, Repr, Inhabited

/-- The stop-bit selections (30_encoding.md R61). -/
inductive StopBits where
  | one | oneAndHalf | two
  deriving DecidableEq, Repr, Inhabited

/-- The frame descriptor (10_state.md R22, 30_encoding.md R64). -/
structure FrameDescriptor where
  startBits : StartBits
  dataBits  : DataBits
  parity    : Parity
  stopBits  : StopBits
  deriving DecidableEq, Repr, Inhabited

namespace Config

/-- `CAPACITY` (00_scope.md R6). -/
def capacity : Nat := 16

/-- `CFG_RESET`, the word RESET applies (30_encoding.md R65). -/
def cfgReset : ConfigWord := 0x7706#16

/-- `AUX_LEVEL` for `dcd` (10_state.md R32). -/
def auxDcd : Level := space

/-- `AUX_LEVEL` for `dsr` (10_state.md R32). -/
def auxDsr : Level := space

/-- `AUX_LEVEL` for `cts` (10_state.md R32). -/
def auxCts : Level := space

/-- What a shift register holds while idle (40_configuration.md R81 step 6). -/
def idleFrame : FrameBits := 0xFFF#12

/-- What an unlisted FIFO slot reads as: the zero that CFG and RESET write to every slot (10_state.md R38, 20_memory.md R53). -/
def unlistedSlot : Byte := 0x00#8

/-- DESIGN CHOICE, log 6: free value. The frame descriptor of a word that is not `Valid`; 30_encoding.md R64 defines
`Decode` only for valid words. Only a restored state can hold such a word. -/
opaque freeDescriptor : ConfigWord → FrameDescriptor

/-- DESIGN CHOICE, log 7: free value. The rate at an index outside `BAUD_TABLE` (30_encoding.md R63). Only a restored state
can hold such an index. -/
opaque freeRate : BitVec 4 → Nat

/-- DESIGN CHOICE, log 8: free value. The level driven from a position the 12-bit shift register does not have. -/
opaque freeLevel : Nat → Level

/-- DESIGN CHOICE, log 8: free value. The receive shift register after a sample is stored at a position it does not have. -/
opaque freeFrame : Nat → FrameBits

/-- DESIGN CHOICE, log 8: free value. A 4-bit position counter after 15 is incremented. -/
opaque freePosition : Nat → Position

end Config

end Sys2Proof
end

