-- ==== Sys2Proof/Machine/Operands.lean ====
section
/-! DEFINITION. The operand forms: the fields of a configuration word and what each index means (30_encoding.md R60 to R64).
The other operands, the byte of ENQ and the level of RXTICK, are used as they stand (R73, R74). -/

namespace Sys2Proof.Machine

/-! ### Fields of the configuration word (30_encoding.md R60) -/

/-- `start_sel`, bit 0. -/
def startSel (w : ConfigWord) : BitVec 1 := w.extractLsb' 0 1

/-- `data_sel`, bits 2:1. -/
def dataSel (w : ConfigWord) : BitVec 2 := w.extractLsb' 1 2

/-- `parity_sel`, bits 5:3. -/
def paritySel (w : ConfigWord) : BitVec 3 := w.extractLsb' 3 3

/-- `stop_sel`, bits 7:6. -/
def stopSel (w : ConfigWord) : BitVec 2 := w.extractLsb' 6 2

/-- `txbaud_sel`, bits 11:8. -/
def txBaudSel (w : ConfigWord) : BitVec 4 := w.extractLsb' 8 4

/-- `rxbaud_sel`, bits 15:12. -/
def rxBaudSel (w : ConfigWord) : BitVec 4 := w.extractLsb' 12 4

/-! ### Meaning of the indices (30_encoding.md R61, R63); an illegal index means nothing -/

def startBitsOf (i : BitVec 1) : Option StartBits :=
  match i.toNat with
  | 0 => some .one
  | _ => none

def dataBitsOf (i : BitVec 2) : DataBits :=
  match i.toNat with
  | 0 => .five
  | 1 => .six
  | 2 => .seven
  | _ => .eight

def parityOf (i : BitVec 3) : Option Parity :=
  match i.toNat with
  | 0 => some .none
  | 1 => some .odd
  | 2 => some .even
  | 3 => some .mark
  | 4 => some .space
  | _ => none

def stopBitsOf (i : BitVec 2) : Option StopBits :=
  match i.toNat with
  | 0 => some .one
  | 1 => some .oneAndHalf
  | 2 => some .two
  | _ => none

/-- `BAUD_TABLE` in bits per second (30_encoding.md R63). -/
def baudTable : List Nat :=
  [110, 150, 300, 600, 1200, 2400, 4800, 9600, 14400, 19200, 28800, 38400, 57600, 115200]

/-! ### `Valid`, `Decode` and the rates -/

/-- `Valid(w)` (30_encoding.md R62). -/
def validConfig (w : ConfigWord) : Bool :=
  (startSel w).toNat == 0 && decide ((paritySel w).toNat ≤ 4) && decide ((stopSel w).toNat ≤ 2) &&
    decide ((txBaudSel w).toNat ≤ 13) && decide ((rxBaudSel w).toNat ≤ 13)

/-- The descriptor that the four framing fields name, where each names one (30_encoding.md R61). -/
def framingOf (w : ConfigWord) : Option FrameDescriptor :=
  match startBitsOf (startSel w), parityOf (paritySel w), stopBitsOf (stopSel w) with
  | some a, some p, some s => some ⟨a, dataBitsOf (dataSel w), p, s⟩
  | _, _, _ => none

/-- `Decode(w)` (30_encoding.md R64). The rule defines it when `Valid(w)`; for any other word it is a free value (log 6). -/
def descriptor (w : ConfigWord) : FrameDescriptor :=
  match validConfig w, framingOf w with
  | true, some fd => fd
  | _, _ => Config.freeDescriptor w

/-- `BAUD_TABLE[i]` (30_encoding.md R63); a free value at the two illegal indices (log 7). -/
def baudRate (i : BitVec 4) : Nat :=
  match baudTable[i.toNat]? with
  | some r => r
  | none => Config.freeRate i

/-- The transmit rate a word selects (10_state.md R23). -/
def txRateOf (w : ConfigWord) : Nat := baudRate (txBaudSel w)

/-- The receive rate a word selects (10_state.md R23). -/
def rxRateOf (w : ConfigWord) : Nat := baudRate (rxBaudSel w)

end Sys2Proof.Machine
end

