-- ==== Sys2Proof/Machine/Frame.lean ====
section
/-! DEFINITION. The serial frame and the frame formatter (30_encoding.md R66 to R70). -/

namespace Sys2Proof

namespace Machine

/-- The number of start bits, always 1 (30_encoding.md R66). -/
def startTicks : StartBits → Nat
  | .one => 1

/-- `data_bits` as a number. -/
def dataCount : DataBits → Nat
  | .five => 5
  | .six => 6
  | .seven => 7
  | .eight => 8

/-- `p` of 30_encoding.md R66. -/
def parityTicks : Parity → Nat
  | .none => 0
  | .odd => 1
  | .even => 1
  | .mark => 1
  | .space => 1

/-- `STOP_TICKS` (30_encoding.md R67). -/
def stopTicks : StopBits → Nat
  | .one => 1
  | .oneAndHalf => 2
  | .two => 2

/-- The first stop position, `1 + d + p` (30_encoding.md R66). -/
def firstStop (fd : FrameDescriptor) : Nat :=
  startTicks fd.startBits + dataCount fd.dataBits + parityTicks fd.parity

/-- `FrameLen(fd)` (30_encoding.md R67). -/
def frameLen (fd : FrameDescriptor) : Nat := firstStop fd + stopTicks fd.stopBits

/-- `popcount(byte[d-1:0])` (30_encoding.md R69). -/
def onesIn (d : Nat) (b : Byte) : Nat := (List.range d).countP (fun i => b.getLsbD i)

/-- `ParityBit(parity, byte)`, which no frame without parity has (30_encoding.md R69). -/
def parityBit (fd : FrameDescriptor) (b : Byte) : Option Level :=
  match fd.parity with
  | .none => none
  | .odd => some (decide (onesIn (dataCount fd.dataBits) b % 2 = 0))
  | .even => some (decide (onesIn (dataCount fd.dataBits) b % 2 = 1))
  | .mark => some Sys2Proof.mark
  | .space => some Sys2Proof.space

/-- The level at position `i` of the frame that carries `b` (30_encoding.md R66, R70). Without parity the position after
the data is a stop bit. -/
def frameLevel (fd : FrameDescriptor) (b : Byte) (i : Nat) : Level :=
  if i = 0 then Sys2Proof.space
  else if i ≤ dataCount fd.dataBits then b.getLsbD (i - 1)
  else if i = dataCount fd.dataBits + 1 then (parityBit fd b).getD Sys2Proof.mark
  else Sys2Proof.mark

/-- `BuildFrame(fd, byte)` (30_encoding.md R70). -/
def buildFrame (fd : FrameDescriptor) (b : Byte) : FrameBits :=
  BitVec.ofFnLE fun i : Fin 12 => frameLevel fd b i.val

/-- The data field of a frame, `zext_8(f[d:1])` (30_encoding.md R71). -/
def frameData (fd : FrameDescriptor) (f : FrameBits) : Byte :=
  (f.extractLsb' 1 (dataCount fd.dataBits)).setWidth 8

/-- A shift register with the level `v` stored at position `i`. -/
def setLevel (f : FrameBits) (i : Nat) (v : Level) : FrameBits :=
  BitVec.ofFnLE fun j : Fin 12 => if j.val = i then v else f.getLsbD j.val

end Machine

end Sys2Proof
end

