-- ==== Sys2Proof/Syntax.lean ====
section
/-! DEFINITION. The operations that a command word can spell, one constructor for each row of spec/opcode_table.json. RESET is a
pin and no command word (30_encoding.md R80): it stands among the inputs of Machine/State.lean. -/

namespace Sys2Proof

/-- The four operations of 30_encoding.md R58, R59. -/
inductive Instr where
  /-- CFG: apply the configuration word `w` (40_configuration.md R81). -/
  | cfg (w : ConfigWord)
  /-- ENQ: enqueue the byte `b` (41_transmit.md R91). -/
  | enq (b : Byte)
  /-- TXTICK: transmit bit-clock tick (41_transmit.md R97). -/
  | txtick
  /-- RXTICK: receive bit-clock tick that samples the level `v` (42_receive.md R107). -/
  | rxtick (v : Level)
  deriving DecidableEq, Repr

end Sys2Proof
end

