-- ==== Sys2Proof/WellFormed.lean ====
section
/-! DEFINITION. Which instructions respect the engine's contract. The types of Instr already carry every operand's width, so the
one thing left to check is the operand of CFG: five fields that each must hold a legal index (30_encoding.md R62). An
instruction that is not well formed still decodes and still runs: CFG then raises Fault(InvalidSelection) (R76). -/

namespace Sys2Proof

/-- The instruction's operand is one the contract allows (30_encoding.md R62, R76). -/
def Instr.wellFormed : Instr → Bool
  | .cfg w => Machine.validConfig w
  | .enq _ => true
  | .txtick => true
  | .rxtick _ => true

end Sys2Proof
end

