-- ==== Sys2Proof/Decode.lean ====
section
/-! DEFINITION. From command words to instructions and back (30_encoding.md R57 to R59, R75). -/

namespace Sys2Proof

/-- Why a word spells no operation. -/
inductive DecodeError where
  /-- The word matches no row of the table (30_encoding.md R75). -/
  | reservedCommand
  deriving DecidableEq, Repr

/-- What the decoder answers. -/
inductive Decoded where
  | ok (i : Instr)
  | error (e : DecodeError)
  deriving DecidableEq, Repr

/-- One row of the table of 30_encoding.md R59. -/
structure Row where
  mask : Word
  bits : Word
  deriving DecidableEq, Repr

def rowCfg : Row := ⟨0x30000#18, 0x00000#18⟩
def rowEnq : Row := ⟨0x3FF00#18, 0x10000#18⟩
def rowTxtick : Row := ⟨0x3FFFF#18, 0x20000#18⟩
def rowRxtick : Row := ⟨0x3FFFE#18, 0x30000#18⟩

/-- The table of 30_encoding.md R59. -/
def rows : List Row := [rowCfg, rowEnq, rowTxtick, rowRxtick]

/-- "A word matches a row when `(cmd and mask) = match`" (30_encoding.md R59). -/
def Row.covers (r : Row) (w : Word) : Bool := w &&& r.mask == r.bits

/-- `arg`, bits 15:0 (30_encoding.md R57). -/
def argOf (w : Word) : BitVec 16 := w.extractLsb' 0 16

/-- The operand byte of ENQ, bits 7:0 (30_encoding.md R73). -/
def byteOf (w : Word) : Byte := w.extractLsb' 0 8

/-- The operand level of RXTICK, bit 0 (30_encoding.md R74). -/
def levelOf (w : Word) : Level := w.getLsbD 0

/-- The decoder: every word is an instruction or is reserved (30_encoding.md R59, R75). -/
def decode (w : Word) : Decoded :=
  if rowCfg.covers w then .ok (.cfg (argOf w))
  else if rowEnq.covers w then .ok (.enq (byteOf w))
  else if rowTxtick.covers w then .ok .txtick
  else if rowRxtick.covers w then .ok (.rxtick (levelOf w))
  else .error .reservedCommand

/-- The encoder: `op` at 17:16 and the operand in the low bits of `arg`, its other bits zero (30_encoding.md R59). -/
def encode : Instr → Word
  | .cfg w => w.setWidth 18
  | .enq b => 0x10000#18 ||| b.setWidth 18
  | .txtick => 0x20000#18
  | .rxtick v => 0x30000#18 ||| (BitVec.ofBool v).setWidth 18

/-- The row of the table that an instruction's words belong to. -/
def rowOf : Instr → Row
  | .cfg _ => rowCfg
  | .enq _ => rowEnq
  | .txtick => rowTxtick
  | .rxtick _ => rowRxtick

/-- The command word whose bits, numbered as the table numbers them, are the low `nbits` bits of `w`. A number that
does not fit 18 bits is no command word; the reserved word of all ones stands for it (DESIGN CHOICE, log 13). -/
def tableWord (nbits w : Nat) : Word :=
  if w % 2 ^ nbits < 2 ^ 18 then BitVec.ofNat 18 (w % 2 ^ nbits) else 0x3FFFF#18

/-- The instruction this decoder reads from an instruction whose bits are `w`. -/
def decodeTableWord (nbits w : Nat) : Option Instr :=
  match decode (tableWord nbits w) with
  | .ok i => some i
  | .error _ => none

end Sys2Proof
end

