-- ==== Sys2Proof/Machine/State.lean ====
section
/-! DEFINITION. The engine's state (10_state.md R13), the inputs the environment can present (10_state.md R34, R37), the reasons
a step can stop, and the state after reset (10_state.md R38). -/

namespace Sys2Proof.Machine

/-- The contract violations that `fault` records (10_state.md R27). As the reason of a stopped step: the engine is already
faulted and every operation but RESET has no step (60_exceptions.md R126). Both are safe: a stop proves nothing about hardware
that would go on. -/
inductive Fault where
  /-- F1, raised by CFG with a word that is not `Valid` (60_exceptions.md R127). Safe. -/
  | invalidSelection
  /-- F2, raised by ENQ when its precondition is false (60_exceptions.md R128). Safe. -/
  | fifoInvariant
  deriving DecidableEq, Repr

/-- Inputs for which the model has no step. All are safe: the state is left as it is and the run has no successor. -/
inductive Refusal where
  /-- An instruction without a meaning yet. No arm of exec answers it. Safe. -/
  | notModelled (mnemonic : String)
  /-- X1: a command word that spells no operation (30_encoding.md R75). Answered by step. Safe. -/
  | reservedCommand
  /-- X2: two strobes active in one step (20_memory.md R45). Answered by step. Safe. -/
  | simultaneousOperations
  /-- Any operation but RESET before the first RESET (70_reset_and_hazards.md R146). Answered by every meaning and by a restore.
  Safe. -/
  | beforeReset
  deriving DecidableEq, Repr

/-- The levels of the input ports in one step (10_state.md R34). -/
structure Pins where
  reset     : Bool
  cfgStrobe : Bool
  cfgWord   : ConfigWord
  enqStrobe : Bool
  enqByte   : Byte
  txTick    : Bool
  rxTick    : Bool
  rxIn      : Level
  deriving DecidableEq, Repr

/-- The elements a checkpoint saves (10_state.md R37). -/
structure Checkpoint where
  fifo     : Vector Byte Config.capacity
  head     : SlotIndex
  tail     : SlotIndex
  empty    : Bool
  txActive : Bool
  txFrame  : FrameBits
  txPos    : Position
  rxActive : Bool
  rxFrame  : FrameBits
  rxPos    : Position
  deriving DecidableEq, Repr

/-- The elements the source's checkpoint list omits. The platform gives each a value as it sees fit: these values are the open
parameter `RESTORE_POLICY` of 00_scope.md R6 (log 9). -/
structure Omitted where
  cfg      : ConfigWord
  txOut    : Level
  rxData   : Byte
  rxStatus : Status
  dcd      : Level
  dsr      : Level
  cts      : Level
  fault    : Option Fault
  deriving DecidableEq, Repr

/-- What the environment can present to the engine, one at a time (00_scope.md R8). -/
inductive Input where
  /-- An operation spelled as a command word (30_encoding.md R57). -/
  | command (w : Word)
  /-- The levels of the input ports (10_state.md R34). -/
  | pins (p : Pins)
  /-- The platform restores a checkpoint (60_exceptions.md R143). -/
  | restore (c : Checkpoint) (o : Omitted)
  deriving DecidableEq, Repr

/-- A Deliver event (10_state.md R35). -/
structure Delivery where
  byte   : Byte
  status : Status
  deriving DecidableEq, Repr

/-- The FIFO backing array as slots with their bytes, in canonical form: indices strictly rising and no slot listed that holds
what an unlisted slot reads as. -/
abbrev Memory := List Host.Cell

/-- The engine (10_state.md R13), the observations of R35, and three fields of the model's own. -/
structure State where
  /-- R21. -/
  cfg       : ConfigWord
  /-- R28. -/
  fifo      : Memory
  /-- R28: next to dequeue. -/
  head      : SlotIndex
  /-- R28: next to enqueue. -/
  tail      : SlotIndex
  /-- R24. -/
  empty     : Bool
  /-- R25. -/
  txActive  : Bool
  /-- R14. -/
  txFrame   : FrameBits
  /-- R15. -/
  txPos     : Position
  /-- R31. -/
  txOut     : Level
  /-- R26. -/
  rxActive  : Bool
  /-- R16. -/
  rxFrame   : FrameBits
  /-- R17. -/
  rxPos     : Position
  /-- R18. -/
  rxData    : Byte
  /-- R19. -/
  rxStatus  : Status
  /-- R32. -/
  dcd       : Level
  /-- R32. -/
  dsr       : Level
  /-- R32. -/
  cts       : Level
  /-- R27. -/
  fault     : Option Fault
  /-- R35: the Deliver events of the run, oldest first. No rule reads it. -/
  delivered : List Delivery
  /-- R35: the OverrunDiag events of the run, oldest first. No rule reads it. -/
  overruns  : List Byte
  /-- The model's own: RESET has been applied (70_reset_and_hazards.md R146, log 4). -/
  started   : Bool
  /-- The model's own: what the environment has presented and the engine has not yet applied, oldest first (log 1). -/
  pending   : List Input
  /-- The model's own: the index of the next free value (log 8). -/
  draws     : Nat
  deriving DecidableEq, Repr

/-- The outcome of an operation. -/
abbrev Result := Host.Outcome State Fault Refusal

/-- The state after the first RESET (10_state.md R38). `rxData` and `rxStatus` have no reset value in the spec: zero is a
DESIGN CHOICE (log 5). -/
def State.reset : State where
  cfg       := Config.cfgReset
  fifo      := []
  head      := 0
  tail      := 0
  empty     := true
  txActive  := false
  txFrame   := Config.idleFrame
  txPos     := 0
  txOut     := mark
  rxActive  := false
  rxFrame   := Config.idleFrame
  rxPos     := 0
  rxData    := 0
  rxStatus  := 0
  dcd       := Config.auxDcd
  dsr       := Config.auxDsr
  cts       := Config.auxCts
  fault     := none
  delivered := []
  overruns  := []
  started   := true
  pending   := []
  draws     := 0

/-- The frame descriptor in force (10_state.md R22). -/
abbrev State.fd (s : State) : FrameDescriptor := descriptor s.cfg

/-- `tx_rate` (10_state.md R23). -/
abbrev State.txRate (s : State) : Nat := txRateOf s.cfg

/-- `rx_rate` (10_state.md R23). -/
abbrev State.rxRate (s : State) : Nat := rxRateOf s.cfg

end Sys2Proof.Machine
end

