-- ==== Sys2Proof/Machine/Flags.lean ====
section
/-! DEFINITION. Every flag computation: the receive status (30_encoding.md R71, R72) and the conditions on the FIFO flag and
indices (10_state.md R29, R30; 41_transmit.md R91). -/

namespace Sys2Proof.Machine

/-! ### Receive status -/

/-- `parity_error` of a sampled frame (42_receive.md R111). -/
def parityError (fd : FrameDescriptor) (f : FrameBits) : Bool :=
  match parityBit fd (frameData fd f) with
  | none => false
  | some p => f.getLsbD (1 + dataCount fd.dataBits) != p

/-- `framing_error` of a sampled frame: some stop position was sampled as 0 (42_receive.md R112). -/
def framingError (fd : FrameDescriptor) (f : FrameBits) : Bool :=
  (List.range (stopTicks fd.stopBits)).any fun j => !f.getLsbD (firstStop fd + j)

/-- `status = {framing_error, parity_error}` (30_encoding.md R71, R72). -/
def frameStatus (fd : FrameDescriptor) (f : FrameBits) : Status :=
  BitVec.ofBool (framingError fd f) ++ BitVec.ofBool (parityError fd f)

/-- `ExtractFrame(fd, f)` (30_encoding.md R71). -/
def extractFrame (fd : FrameDescriptor) (f : FrameBits) : Delivery :=
  ⟨frameData fd f, frameStatus fd f⟩

/-! ### FIFO conditions -/

/-- What ENQ asserts first (41_transmit.md R92). -/
def enqPrecondition (s : State) : Bool :=
  decide (s.head.toNat < Config.capacity) && decide (s.tail.toNat < Config.capacity) && (!s.empty || s.head == s.tail)

/-- ENQ takes the bypass branch (41_transmit.md R93). -/
def enqBypasses (s : State) : Bool := s.empty && !s.txActive

/-- ENQ takes the append branch, the bypass branch having been tested first (41_transmit.md R94). -/
def enqAppends (s : State) : Bool := !enqBypasses s && (s.empty || s.head != s.tail)

/-- The FIFO is full (10_state.md R29, I3). -/
def fifoFull (s : State) : Bool := !s.empty && s.head == s.tail

/-- `Count`, the number of bytes the FIFO holds (10_state.md R30). -/
def fifoCount (s : State) : Nat :=
  if s.empty then 0
  else if s.head = s.tail then Config.capacity
  else (s.tail.toNat + Config.capacity - s.head.toNat) % Config.capacity

end Sys2Proof.Machine
end

