-- ==== Sys2Proof/Machine/Ops.lean ====
section
/-! DEFINITION. The named operations over the state: FIFO slots, position counters, taking a fault and leaving it, and the
internal events TXLOAD, TXDONE and RXDONE. -/

namespace Sys2Proof.Machine

/-! ### FIFO storage (20_memory.md R41) -/

/-- The byte a memory holds at address `a`. -/
def Memory.lookup : Memory → Nat → Byte
  | [], _ => Config.unlistedSlot
  | (k, v) :: m, a => if k = a then v else Memory.lookup m a

/-- A memory with the byte `b` at address `a`, kept in canonical form. -/
def Memory.store : Memory → Nat → Byte → Memory
  | [], a, b => if b = Config.unlistedSlot then [] else [(a, b)]
  | (k, v) :: m, a, b =>
    if a < k then (if b = Config.unlistedSlot then (k, v) :: m else (a, b) :: (k, v) :: m)
    else if a = k then (if b = Config.unlistedSlot then m else (a, b) :: m)
    else (k, v) :: Memory.store m a b

/-- Canonical from address `lo` on: addresses strictly rising and below `CAPACITY`, no entry equal to an unlisted slot. -/
def Memory.wfFrom : Nat → Memory → Bool
  | _, [] => true
  | lo, (k, v) :: m =>
    decide (lo ≤ k) && decide (k < Config.capacity) && v != Config.unlistedSlot && Memory.wfFrom (k + 1) m

/-- The memory is in canonical form. -/
def Memory.wf (m : Memory) : Bool := Memory.wfFrom 0 m

/-- `MemRead(idx, 1)` (20_memory.md R41). -/
def memRead (m : Memory) (i : SlotIndex) : Byte := m.lookup i.toNat

/-- `MemWrite(idx, 1, v)` (20_memory.md R41). -/
def memWrite (m : Memory) (i : SlotIndex) (v : Byte) : Memory := m.store i.toNat v

/-- The memory after zero is written to every slot (40_configuration.md R81 step 1): in canonical form nothing is listed.
`clearing_writes_give_memClear` in Laws/Memory.lean says that the sixteen writes give it. -/
def memClear : Memory := []

/-- `(i + 1) mod CAPACITY` (00_scope.md R7). -/
def nextIndex (i : SlotIndex) : SlotIndex := BitVec.ofNat 4 ((i.toNat + 1) % Config.capacity)

/-- The queued bytes, oldest first (10_state.md R30). -/
def queuedBytes (s : State) : List Byte :=
  (List.range (fifoCount s)).map fun k => memRead s.fifo (BitVec.ofNat 4 ((s.head.toNat + k) % Config.capacity))

/-! ### Shift registers and their counters -/

/-- A position counter after one tick (10_state.md R20). An increment of 15 is a free value (log 8). -/
def nextPosition (n : Nat) (p : Position) : Position :=
  if p.toNat < 15 then p + 1 else Config.freePosition n

/-- `f[p]`, the level driven from position `p` (41_transmit.md R97). A position the register lacks gives a free value (log 8). -/
def levelAt (n : Nat) (f : FrameBits) (p : Position) : Level :=
  if p.toNat < 12 then f.getLsbD p.toNat else Config.freeLevel n

/-- `f[p] <- v`, a sample stored at position `p` (42_receive.md R109). At a position the register lacks the whole register is
a free value (log 8). -/
def sampleAt (n : Nat) (f : FrameBits) (p : Position) (v : Level) : FrameBits :=
  if p.toNat < 12 then setLevel f p.toNat v else Config.freeFrame n

/-! ### Contract violations (60_exceptions.md R126) -/

/-- `raise Fault(kind)`: `fault` records the kind and nothing else changes (60_exceptions.md R126). DEDUCED, log 3: the raising
operation has a next state, so that RESET can follow it. -/
def raiseFault (kind : Fault) (s : State) : Result := .next { s with fault := some kind }

/-- The way back from a fault, which only RESET takes (60_exceptions.md R126). -/
def clearFault (s : State) : State := { s with fault := none }

/-- An operation runs only on an engine that has been reset (70_reset_and_hazards.md R146) and is not faulted: on a faulted engine
it has no step and the model answers the recorded fault (60_exceptions.md R126). -/
def whenRunning (s : State) (op : State → Result) : Result :=
  if s.started then
    match s.fault with
    | none => op s
    | some kind => .fault kind
  else .refused .beforeReset

/-! ### Events (10_state.md R35) -/

/-- `emit Deliver(byte, status)`. -/
def emitDeliver (d : Delivery) (s : State) : State := { s with delivered := s.delivered ++ [d] }

/-- `emit OverrunDiag(byte)`. -/
def emitOverrun (b : Byte) (s : State) : State := { s with overruns := s.overruns ++ [b] }

/-! ### Internal events -/

/-- TXLOAD(b) (41_transmit.md R96). -/
def txLoad (b : Byte) (s : State) : State :=
  { s with txFrame := buildFrame s.fd b, txPos := 0, txActive := true }

/-- The dequeue of TXDONE: `head` moves on and the flag says whether it met `tail`; the slot keeps its byte (20_memory.md R56). -/
def dequeue (s : State) : State :=
  { s with head := nextIndex s.head, empty := nextIndex s.head == s.tail }

/-- TXDONE (41_transmit.md R98). -/
def txDone (s : State) : State :=
  if s.empty then { s with txActive := false, txPos := 0 }
  else dequeue (txLoad (memRead s.fifo s.head) s)

/-- RXDONE (42_receive.md R110). -/
def rxDone (s : State) : State :=
  let d := extractFrame s.fd s.rxFrame
  emitDeliver d { s with rxData := d.byte, rxStatus := d.status, rxActive := false, rxPos := 0 }

end Sys2Proof.Machine
end

