-- ==== Sys2Proof/Machine/Checkpoint.lean ====
section
/-! DEFINITION. Checkpoint and restore (10_state.md R37, 60_exceptions.md R143, 70_reset_and_hazards.md R154). -/

namespace Sys2Proof.Machine

/-- The contents of the FIFO array, slot by slot. -/
def slotsOf (m : Memory) : Vector Byte Config.capacity :=
  Vector.ofFn fun i => memRead m (BitVec.ofNat 4 i.val)

/-- The canonical memory that holds the given bytes from address `a` on. -/
def Memory.ofBytes : Nat → List Byte → Memory
  | _, [] => []
  | a, b :: bs => if b = Config.unlistedSlot then Memory.ofBytes (a + 1) bs else (a, b) :: Memory.ofBytes (a + 1) bs

/-- The memory that holds the given slots. -/
def memoryOf (slots : Vector Byte Config.capacity) : Memory := Memory.ofBytes 0 slots.toList

/-- The checkpointable elements of a state (10_state.md R37). -/
def saveCheckpoint (s : State) : Checkpoint where
  fifo     := slotsOf s.fifo
  head     := s.head
  tail     := s.tail
  empty    := s.empty
  txActive := s.txActive
  txFrame  := s.txFrame
  txPos    := s.txPos
  rxActive := s.rxActive
  rxFrame  := s.rxFrame
  rxPos    := s.rxPos

/-- The elements the checkpoint list omits (10_state.md R37), as a platform that wants to resume exactly would keep them. -/
def omittedOf (s : State) : Omitted where
  cfg      := s.cfg
  txOut    := s.txOut
  rxData   := s.rxData
  rxStatus := s.rxStatus
  dcd      := s.dcd
  dsr      := s.dsr
  cts      := s.cts
  fault    := s.fault

/-- A restore "writes state directly and can produce states no run from RESET reaches" (70_reset_and_hazards.md R154). The omitted
elements take the values the platform gives (`RESTORE_POLICY`, log 9). -/
def restoreState (c : Checkpoint) (o : Omitted) (s : State) : State :=
  { s with
    fifo := memoryOf c.fifo, head := c.head, tail := c.tail, empty := c.empty
    txActive := c.txActive, txFrame := c.txFrame, txPos := c.txPos
    rxActive := c.rxActive, rxFrame := c.rxFrame, rxPos := c.rxPos
    cfg := o.cfg, txOut := o.txOut, rxData := o.rxData, rxStatus := o.rxStatus
    dcd := o.dcd, dsr := o.dsr, cts := o.cts, fault := o.fault }

/-- A restore before the first RESET is refused like any other use of the engine (70_reset_and_hazards.md R146, log 9). -/
def applyRestore (c : Checkpoint) (o : Omitted) (s : State) : Result :=
  if s.started then .next (restoreState c o s) else .refused .beforeReset

end Sys2Proof.Machine
end

