-- ==== Sys2Proof/Machine/Configure.lean ====
section
/-! DEFINITION. The Frame Configurator: CFG (40_configuration.md) and RESET, which is CFG with the default word after the fault is
cleared (70_reset_and_hazards.md R144). -/

namespace Sys2Proof.Machine

/-- The six steps of CFG as one atomic effect (40_configuration.md R81, R82). -/
def configure (w : ConfigWord) (s : State) : State :=
  { s with
    -- step 1: the FIFO
    fifo := memClear, head := 0, tail := 0, empty := true
    -- steps 2 and 3: the descriptor and the rates, which are functions of the word
    cfg := w
    -- steps 4 and 5: the lines
    txOut := mark, dcd := Config.auxDcd, dsr := Config.auxDsr, cts := Config.auxCts
    -- step 6: the shift registers
    txActive := false, txFrame := Config.idleFrame, txPos := 0
    rxActive := false, rxFrame := Config.idleFrame, rxPos := 0 }

/-- CFG(w) (40_configuration.md R81, R88). -/
def execCfg (w : ConfigWord) (s : State) : Result :=
  whenRunning s fun s => if validConfig w then .next (configure w s) else raiseFault .invalidSelection s

/-- RESET (70_reset_and_hazards.md R144): works from any state and produces no event. -/
def applyReset (s : State) : State :=
  { configure Config.cfgReset (clearFault s) with started := true }

end Sys2Proof.Machine
end

