-- ==== Sys2Proof/Machine/Receive.lean ====
section
/-! DEFINITION. The receive engine: RXTICK (42_receive.md). -/

namespace Sys2Proof.Machine

/-- A 0 sampled while Listening is the start bit, position 0; the other positions are preset to 1 (42_receive.md R108). -/
def startFrame (s : State) : State :=
  { s with rxFrame := 0xFFE#12, rxPos := 1, rxActive := true }

/-- One sample, then the position (42_receive.md R109, 60_exceptions.md R134). -/
def shiftIn (v : Level) (s : State) : State :=
  { s with rxFrame := sampleAt s.draws s.rxFrame s.rxPos v, rxPos := nextPosition s.draws s.rxPos }

/-- The receive tick (42_receive.md R107 to R109). -/
def rxTick (v : Level) (s : State) : State :=
  if s.rxActive then
    if (shiftIn v s).rxPos.toNat = frameLen s.fd then rxDone (shiftIn v s) else shiftIn v s
  else if v then s
  else startFrame s

/-- RXTICK(v) (42_receive.md R107). -/
def execRxtick (v : Level) (s : State) : Result := whenRunning s fun s => .next (rxTick v s)

end Sys2Proof.Machine
end

