-- ==== Sys2Proof/Machine/Transmit.lean ====
section
/-! DEFINITION. The transmit engine: ENQ and TXTICK (41_transmit.md). -/

namespace Sys2Proof.Machine

/-- The append branch of ENQ (41_transmit.md R94): the slot at the old `tail` is written. -/
def append (b : Byte) (s : State) : State :=
  { s with fifo := memWrite s.fifo s.tail b, tail := nextIndex s.tail, empty := false }

/-- The three branches of ENQ in the order they are tested (41_transmit.md R91, R93 to R95). -/
def enqueue (b : Byte) (s : State) : State :=
  if enqBypasses s then txLoad b s
  else if enqAppends s then append b s
  else emitOverrun b s

/-- ENQ(b) (41_transmit.md R91, R92). -/
def execEnq (b : Byte) (s : State) : Result :=
  whenRunning s fun s => if enqPrecondition s then .next (enqueue b s) else raiseFault .fifoInvariant s

/-- One bit onto the line, then the position (41_transmit.md R97, 60_exceptions.md R134). -/
def shiftOut (s : State) : State :=
  { s with txOut := levelAt s.draws s.txFrame s.txPos, txPos := nextPosition s.draws s.txPos }

/-- The transmit tick: nothing while Idle (41_transmit.md R99), else one bit, and TXDONE when the frame is complete (R97). -/
def txTick (s : State) : State :=
  if s.txActive then
    if (shiftOut s).txPos.toNat = frameLen s.fd then txDone (shiftOut s) else shiftOut s
  else s

/-- TXTICK (41_transmit.md R97). -/
def execTxtick (s : State) : Result := whenRunning s fun s => .next (txTick s)

end Sys2Proof.Machine
end

