-- ==== Sys2Proof/Machine/Dispatch.lean ====
section
/-! DEFINITION. One arm for each constructor of Instr. -/

namespace Sys2Proof.Machine

def exec (i : Instr) (s : State) : Host.Outcome State Fault Refusal :=
  match i with
  | .cfg w => Sys2Proof.Machine.execCfg w s
  | .enq b => Sys2Proof.Machine.execEnq b s
  | .txtick => Sys2Proof.Machine.execTxtick s
  | .rxtick v => Sys2Proof.Machine.execRxtick v s

end Sys2Proof.Machine
end

