-- ==== Sys2Proof/Machine/Ports.lean ====
section
/-! DEFINITION. The ports (10_state.md R34): how an input names what the engine is to do, and what the output ports show. -/

namespace Sys2Proof.Machine

/-- What one step is asked to do. -/
inductive Action where
  /-- No strobe is active. -/
  | idle
  /-- The `reset` pin (30_encoding.md R80). -/
  | reset
  /-- One of the four operations. -/
  | run (i : Instr)
  /-- The platform restores a checkpoint. -/
  | restore (c : Checkpoint) (o : Omitted)
  /-- The input is outside the contract (60_exceptions.md R129). -/
  | refuse (r : Refusal)
  deriving DecidableEq, Repr

/-- No strobe active. -/
def Pins.quiet : Pins := ⟨false, false, 0, false, 0, false, false, mark⟩

/-- The pins that apply RESET. -/
def Pins.resetOnly : Pins := { Pins.quiet with reset := true }

/-- The pin form of an operation (10_state.md R34; the "Encoding" lines of R81, R91, R97, R107). -/
def Pins.ofInstr : Instr → Pins
  | .cfg w => { Pins.quiet with cfgStrobe := true, cfgWord := w }
  | .enq b => { Pins.quiet with enqStrobe := true, enqByte := b }
  | .txtick => { Pins.quiet with txTick := true }
  | .rxtick v => { Pins.quiet with rxTick := true, rxIn := v }

/-- The active strobes of a step, each with the action it applies (10_state.md R34). A data pin counts only with its strobe. -/
def Pins.strobes (p : Pins) : List Action :=
  (if p.reset then [.reset] else []) ++
  (if p.cfgStrobe then [.run (.cfg p.cfgWord)] else []) ++
  (if p.enqStrobe then [.run (.enq p.enqByte)] else []) ++
  (if p.txTick then [.run .txtick] else []) ++
  (if p.rxTick then [.run (.rxtick p.rxIn)] else [])

/-- At most one strobe may be active in a step; two are refused (20_memory.md R45). -/
def Pins.action (p : Pins) : Action :=
  match p.strobes with
  | [] => .idle
  | [a] => a
  | _ :: _ :: _ => .refuse .simultaneousOperations

/-- A command word applies the operation it spells; a reserved word is refused (30_encoding.md R57, R75). -/
def commandAction (w : Word) : Action :=
  match decode w with
  | .ok i => .run i
  | .error .reservedCommand => .refuse .reservedCommand

/-- What an input asks for. -/
def Input.action : Input → Action
  | .command w => commandAction w
  | .pins p => p.action
  | .restore c o => .restore c o

/-- The input applies ENQ or CFG, the operations that a finished run has no more of to come (70_reset_and_hazards.md R147). -/
def Input.bringsWork (x : Input) : Bool :=
  match x.action with
  | .run (.cfg _) => true
  | .run (.enq _) => true
  | .run .txtick => false
  | .run (.rxtick _) => false
  | .idle => false
  | .reset => false
  | .restore _ _ => false
  | .refuse _ => false

/-- The next input and the state with it taken, or nothing when the environment presents nothing (log 1). The counter of the
free values moves on (log 8). -/
def fetch (s : State) : Option (Input × State) :=
  match s.pending with
  | [] => none
  | x :: rest => some (x, { s with pending := rest, draws := s.draws + 1 })

/-- The state with one more input presented, before all others. -/
def present (x : Input) (s : State) : State := { s with pending := x :: s.pending }

/-- The output ports (10_state.md R34). `rx_data` and `rx_status` show the holding register in every step (R18, R19; 42_receive.md
R113), `deliver_valid` the steps in which it is new. `overrun_byte` has no register behind it: without its event there is none. -/
structure Outputs where
  txOut   : Level
  dcd     : Level
  dsr     : Level
  cts     : Level
  txRate  : Nat
  rxRate  : Nat
  /-- `deliver_valid`, a pulse of one step (10_state.md R35). -/
  deliverValid : Bool
  rxData   : Byte
  rxStatus : Status
  /-- `overrun_valid` with `overrun_byte`, a pulse of one step (10_state.md R35). -/
  overrun : Option Byte
  deriving DecidableEq, Repr

/-- What the output ports show in the step from `s` to `t`: the levels, the rates and the holding register of `t`, and a pulse for
the event the step produced (10_state.md R34, R35; log 10). -/
def outputs (s t : State) : Outputs where
  txOut   := t.txOut
  dcd     := t.dcd
  dsr     := t.dsr
  cts     := t.cts
  txRate  := t.txRate
  rxRate  := t.rxRate
  deliverValid := decide (s.delivered.length < t.delivered.length)
  rxData   := t.rxData
  rxStatus := t.rxStatus
  overrun := (t.overruns.drop s.overruns.length).head?

end Sys2Proof.Machine
end

