-- ==== Sys2Proof/Machine/Step.lean ====
section
/-! DEFINITION. One step: the next input the environment has presented is applied (00_scope.md R9). -/

namespace Sys2Proof.Machine

/-- Apply one action (00_scope.md R9). -/
def perform (a : Action) (s : State) : Result :=
  match a with
  | .idle => .next s
  | .reset => .next (applyReset s)
  | .run i => exec i s
  | .restore c o => applyRestore c o s
  | .refuse r => .refused r

/-- One step. The engine has "no step of its own" (00_scope.md R8): when nothing is presented nothing changes (log 2). -/
def step (s : State) : Host.Outcome State Fault Refusal :=
  match fetch s with
  | none => .next s
  | some (x, s') => perform x.action s'

/-- The state with a table row's instruction presented as the next input. -/
def State.withFetchWord (s : State) (nbits w : Nat) : State :=
  present (.command (tableWord nbits w)) s

end Sys2Proof.Machine
end

