-- ==== Sys2Proof/Machine/Trace.lean ====
section
/-! DEFINITION. Runs written as traces: the trace lines of 30_encoding.md R79 and the pseudo-operations of R80. A trace is an
abbreviation for inputs presented one after the other; it adds nothing to the engine. -/

namespace Sys2Proof.Machine

/-- Present one input and take one step. -/
def applyInput (x : Input) (s : State) : Result := step (present x s)

/-- Inputs presented one after the other, stopping at the first fault or refusal. -/
def applyInputs : List Input → State → Result
  | [], s => .next s
  | x :: xs, s =>
    match applyInput x s with
    | .next t => applyInputs xs t
    | .fault f => .fault f
    | .refused r => .refused r

/-- `n` bit-times of the loopback wiring: TXTICK, then RXTICK of the level just driven (30_encoding.md R80, `LOOP*n`). -/
def loopBack : Nat → State → Result
  | 0, s => .next s
  | n + 1, s =>
    match applyInput (.command (encode .txtick)) s with
    | .next t =>
      match applyInput (.command (encode (.rxtick t.txOut))) t with
      | .next u => loopBack n u
      | .fault f => .fault f
      | .refused r => .refused r
    | .fault f => .fault f
    | .refused r => .refused r

/-- The keyword form of CFG; a keyword left out takes the source's default (30_encoding.md R79). -/
structure CfgKeywords where
  data   : DataBits := .eight
  parity : Parity := .none
  stop   : StopBits := .one
  txBaud : Nat := 9600
  rxBaud : Nat := 9600
  deriving DecidableEq, Repr

/-- The index of a data-bit count (30_encoding.md R61). -/
def dataIndex : DataBits → BitVec 2
  | .five => 0
  | .six => 1
  | .seven => 2
  | .eight => 3

/-- The index of a parity mode (30_encoding.md R61). -/
def parityIndex : Parity → BitVec 3
  | .none => 0
  | .odd => 1
  | .even => 2
  | .mark => 3
  | .space => 4

/-- The index of a stop-bit selection (30_encoding.md R61). -/
def stopIndex : StopBits → BitVec 2
  | .one => 0
  | .oneAndHalf => 1
  | .two => 2

/-- The index of a rate, where the table has it (30_encoding.md R63). -/
def baudIndex (rate : Nat) : Option (BitVec 4) :=
  (baudTable.findIdx? (· == rate)).map (BitVec.ofNat 4)

/-- The six fields packed into a word, `start_sel` 0 (30_encoding.md R60). -/
def packConfig (data : BitVec 2) (parity : BitVec 3) (stop : BitVec 2) (tx rx : BitVec 4) : ConfigWord :=
  data.setWidth 16 <<< 1 ||| parity.setWidth 16 <<< 3 ||| stop.setWidth 16 <<< 6 ||| tx.setWidth 16 <<< 8 |||
    rx.setWidth 16 <<< 12

/-- The word of a keyword CFG, where both rates are in the table (30_encoding.md R79). -/
def CfgKeywords.word (k : CfgKeywords) : Option ConfigWord :=
  match baudIndex k.txBaud, baudIndex k.rxBaud with
  | some tx, some rx => some (packConfig (dataIndex k.data) (parityIndex k.parity) (stopIndex k.stop) tx rx)
  | _, _ => none

/-- One line of a trace (30_encoding.md R79, R80). -/
inductive TraceLine where
  | reset
  | cfg (k : CfgKeywords)
  | cfgWord (w : ConfigWord)
  | enq (b : Byte)
  | txtick (n : Nat)
  | rxtick (levels : List Level)
  | loop (n : Nat)
  | send (b : Byte)
  deriving DecidableEq, Repr

/-- The effect of a trace line (30_encoding.md R79, R80). A keyword line with a rate outside the table is no trace line: nothing. -/
def TraceLine.run (l : TraceLine) (s : State) : Option Result :=
  match l with
  | .reset => some (applyInput (.pins Pins.resetOnly) s)
  | .cfg k => k.word.map fun w => applyInput (.command (encode (.cfg w))) s
  | .cfgWord w => some (applyInput (.command (encode (.cfg w))) s)
  | .enq b => some (applyInput (.command (encode (.enq b))) s)
  | .txtick n => some (applyInputs (List.replicate n (.command (encode .txtick))) s)
  | .rxtick vs => some (applyInputs (vs.map fun v => .command (encode (.rxtick v))) s)
  | .loop n => some (loopBack n s)
  | .send b =>
    some (applyInputs (.command (encode (.enq b)) :: List.replicate (frameLen s.fd) (.command (encode .txtick))) s)

end Sys2Proof.Machine
end

