-- ==== Sys2Proof/Safety.lean ====
section
/-! DEFINITION. The terms claims are stated in: a running engine, the invariants of 10_state.md R29 and R36, lawful inputs, the end
of a run, and the hidden state no operation reads. -/

namespace Sys2Proof.Machine

/-- RESET has been applied and no contract violation is recorded: the condition under which the operations have their effect. -/
structure State.Running (s : State) : Prop where
  started : s.started = true
  fault   : s.fault = none

/-- What holds in every state reachable from RESET: 10_state.md R29 (I1, I2), R36 (I4 to I10), and two facts of the model, the
canonical form of the memory and, DEDUCED from 10_state.md R14 and 20_memory.md R52, that a frame in flight is one the formatter
built under the descriptor in force (log 11). -/
structure State.Lawful (s : State) : Prop where
  memory    : Memory.wf s.fifo = true
  /-- I1. -/
  indices   : s.head.toNat < Config.capacity ∧ s.tail.toNat < Config.capacity
  /-- I2. -/
  emptyFlag : s.empty = true → s.head = s.tail
  /-- I4. -/
  idleEmpty : s.txActive = false → s.empty = true
  /-- I5. -/
  idlePos   : s.txActive = false → s.txPos = 0
  /-- I6. -/
  shiftPos  : s.txActive = true → s.txPos.toNat < frameLen s.fd
  /-- I7. -/
  listenPos : s.rxActive = false → s.rxPos = 0
  /-- I8. -/
  sampling  : s.rxActive = true → 1 ≤ s.rxPos.toNat ∧ s.rxPos.toNat < frameLen s.fd ∧ s.rxFrame.getLsbD 0 = space
  /-- I9. -/
  config    : validConfig s.cfg = true
  /-- I10. -/
  idleLine  : s.txActive = false → s.txOut = mark
  built     : s.txActive = true → buildFrame s.fd (frameData s.fd s.txFrame) = s.txFrame

/-- An input that may be presented: a restore must write a lawful state (70_reset_and_hazards.md R154); the rest are free. -/
def Input.Lawful : Input → Prop
  | .command _ => True
  | .pins _ => True
  | .restore c o => (restoreState c o State.reset).Lawful

/-- The invariant of a run: the state is lawful and so is every input still to come. -/
structure State.Inv (s : State) : Prop where
  lawful  : s.Lawful
  pending : ∀ x ∈ s.pending, x.Lawful

/-- The engine is quiescent: what 70_reset_and_hazards.md R147 asks of the engine at the end of a run. -/
structure State.Quiescent (s : State) : Prop where
  fault    : s.fault = none
  txActive : s.txActive = false
  empty    : s.empty = true
  rxActive : s.rxActive = false

/-- The end of a run (70_reset_and_hazards.md R147, log 18): the engine is quiescent and no ENQ or CFG is to come. -/
structure State.Finished (s : State) : Prop where
  quiescent : s.Quiescent
  noWork    : ∀ x ∈ s.pending, x.bringsWork = false

/-- Two states that agree but for the receive holding register, the control lines and the recorded events. -/
def State.agreesBehind (s t : State) : Prop :=
  t = { s with rxData := t.rxData, rxStatus := t.rxStatus, dcd := t.dcd, dsr := t.dsr, cts := t.cts
               delivered := t.delivered, overruns := t.overruns }

/-! ### Runs of one kind of operation -/

/-- Operations executed one after the other, stopping at the first fault or refusal. -/
def execAll : List Instr → State → Result
  | [], s => .next s
  | i :: is, s =>
    match exec i s with
    | .next t => execAll is t
    | .fault f => .fault f
    | .refused r => .refused r

/-- The levels of a frame in the order they go onto the line: its first `FrameLen` positions (30_encoding.md R66). -/
def frameLevels (fd : FrameDescriptor) (f : FrameBits) : List Level := (List.range (frameLen fd)).map fun i => f.getLsbD i

/-- `n` transmit ticks: the levels on the transmit line after each, and the last state. -/
def transmitTicks : Nat → State → Option (List Level × State)
  | 0, s => some ([], s)
  | n + 1, s =>
    match exec .txtick s with
    | .next t => (transmitTicks n t).map fun r => (t.txOut :: r.1, r.2)
    | .fault _ => none
    | .refused _ => none

/-- Receive ticks that sample the given levels in order. -/
def receiveTicks (vs : List Level) (s : State) : Result := execAll (vs.map .rxtick) s

/-- The shift register that holds the given samples from position 0 on and its preset 1 above them (42_receive.md R108, R109). -/
def sampledFrame (vs : List Level) : FrameBits := BitVec.ofFnLE fun i : Fin 12 => vs.getD i.val mark

/-- `zext_8(b[d-1:0])`: what a byte is once it has been through a frame (30_encoding.md R71). -/
def sentByte (fd : FrameDescriptor) (b : Byte) : Byte := (b.setWidth (dataCount fd.dataBits)).setWidth 8

end Sys2Proof.Machine
end

