-- ==== Sys2Proof/Certificates/Slice0/Obligations.lean ====
section
/-! DEFINITION. The statements about the model. Each docstring names the rule of spec/ it formalises. -/

open Sys2Proof Sys2Proof.Machine

/-! ### Reset and start-up -/

/-- 70_reset_and_hazards.md R144. RESET from any state, faulted or not, reset before or not, whatever the data pins show.
`rxData`, `rxStatus` and the recorded events are not written. The model's own: that the input is taken from
`pending` (log 1), that the engine counts as `started` (log 4), that `draws` moves on (log 8), and that a data pin without its
strobe is ignored (log 15). -/
def Obligations.ResetGivesTheTabledValuesFromAnyState : Prop :=
  (∀ (s : State) (p : Pins) (rest : List Input), s.pending = .pins p :: rest → p.strobes = [.reset] →
    step s = .next { s with
      cfg := 0x7706#16, fifo := [], head := 0, tail := 0, empty := true
      txActive := false, txFrame := 0xFFF#12, txPos := 0, txOut := true
      rxActive := false, rxFrame := 0xFFF#12, rxPos := 0
      dcd := false, dsr := false, cts := false, fault := none
      started := true, pending := rest, draws := s.draws + 1 }) ∧
  (∀ i : SlotIndex, memRead [] i = 0x00#8) ∧
  validConfig 0x7706#16 = true ∧ txRateOf 0x7706#16 = 9600 ∧ rxRateOf 0x7706#16 = 9600

/-- 30_encoding.md R65. -/
def Obligations.DefaultWordHoldsTheDefaults : Prop :=
  startSel 0x7706#16 = 0 ∧ dataSel 0x7706#16 = 3 ∧ paritySel 0x7706#16 = 0 ∧ stopSel 0x7706#16 = 0 ∧
  txBaudSel 0x7706#16 = 7 ∧ rxBaudSel 0x7706#16 = 7 ∧
  descriptor 0x7706#16 = ⟨.one, .eight, .none, .one⟩ ∧ txRateOf 0x7706#16 = 9600 ∧ rxRateOf 0x7706#16 = 9600

/-- 10_state.md R36 and R38: the state after reset meets the invariant, and so does the state RESET leaves from any state whose
inputs to come are lawful. The model's clauses of the invariant are those of log 11. -/
def Obligations.ResetEstablishesTheInvariant : Prop :=
  State.reset.Inv ∧ State.reset.Running ∧ State.reset.Quiescent ∧ State.reset.Finished ∧
  ∀ s : State, (∀ x ∈ s.pending, x.Lawful) → (applyReset s).Inv ∧ (applyReset s).Running

/-- 70_reset_and_hazards.md R146, logs 4 and 9: before the first RESET no operation and no restore has a step. -/
def Obligations.NothingButResetStepsBeforeTheFirstReset : Prop :=
  ∀ (s t : State) (x : Input) (rest : List Input), s.started = false → s.pending = x :: rest → step s = .next t →
    x.action = .reset ∨ (x.action = .idle ∧ t = { s with pending := rest, draws := s.draws + 1 })

/-! ### Configuration -/

/-- 40_configuration.md R81 and R86: the three outcomes of CFG on an engine that has been reset, its two encodings, the rates, and
the rule's example. That the CFG which raises the fault answers a next state, with the fault recorded, is the
model's reading (log 3). -/
def Obligations.CfgFollowsItsRule : Prop :=
  (∀ (s : State) (w : ConfigWord), s.started = true →
    (∀ kind, s.fault = some kind → exec (.cfg w) s = .fault kind) ∧
    (s.fault = none → validConfig w = false → exec (.cfg w) s = .next { s with fault := some .invalidSelection }) ∧
    (s.fault = none → validConfig w = true → exec (.cfg w) s = .next { s with
      fifo := [], head := 0, tail := 0, empty := true, cfg := w, txOut := true
      dcd := false, dsr := false, cts := false
      txActive := false, txFrame := 0xFFF#12, txPos := 0
      rxActive := false, rxFrame := 0xFFF#12, rxPos := 0 })) ∧
  (∀ i : SlotIndex, memRead [] i = 0x00#8) ∧
  (∀ w : ConfigWord, encode (.cfg w) = w.setWidth 18 ∧ (Pins.ofInstr (.cfg w)).action = .run (.cfg w) ∧
    txRateOf w = baudRate (w.extractLsb' 8 4) ∧ rxRateOf w = baudRate (w.extractLsb' 12 4)) ∧
  ∀ s : State, s.Running → exec (.cfg 0x7706#16) s = .next { State.reset with
    rxData := s.rxData, rxStatus := s.rxStatus, delivered := s.delivered, overruns := s.overruns
    pending := s.pending, draws := s.draws }

/-- 40_configuration.md R88 and 60_exceptions.md R127: an illegal word records the kind and nothing else; the word RESET applies
is legal. That the CFG which raises the fault answers a next state is the model's reading (log 3). -/
def Obligations.InvalidSelectionChangesOnlyTheFault : Prop :=
  (∀ (s : State) (w : ConfigWord), s.Running → validConfig w = false →
    exec (.cfg w) s = .next { s with fault := some .invalidSelection }) ∧
  validConfig 0x7707#16 = false ∧ validConfig 0x772E#16 = false ∧ validConfig 0x77C6#16 = false ∧
  validConfig 0x7E06#16 = false ∧ validConfig 0xF706#16 = false ∧ validConfig Config.cfgReset = true

/-- 30_encoding.md R61 to R63: `Valid` is true of exactly the words whose every field the tables give a meaning. -/
def Obligations.ValidWordsAreThoseTheTablesName : Prop :=
  ∀ w : ConfigWord, validConfig w = true ↔
    (framingOf w).isSome = true ∧ (baudTable[(txBaudSel w).toNat]?).isSome = true ∧
      (baudTable[(rxBaudSel w).toNat]?).isSome = true

/-- 30_encoding.md R64, and the tables of R61 that it goes through, index by index. -/
def Obligations.DecodeGivesTheSelectedDescriptor : Prop :=
  (∀ w : ConfigWord, validConfig w = true →
    startTicks (descriptor w).startBits = 1 ∧
    dataCount (descriptor w).dataBits = 5 + (w.extractLsb' 1 2).toNat ∧
    parityOf (w.extractLsb' 3 3) = some (descriptor w).parity ∧
    stopBitsOf (w.extractLsb' 6 2) = some (descriptor w).stopBits) ∧
  (startBitsOf 0 = some .one ∧ startBitsOf 1 = none) ∧
  (dataBitsOf 0 = .five ∧ dataBitsOf 1 = .six ∧ dataBitsOf 2 = .seven ∧ dataBitsOf 3 = .eight) ∧
  (parityOf 0 = some .none ∧ parityOf 1 = some .odd ∧ parityOf 2 = some .even ∧ parityOf 3 = some .mark ∧
    parityOf 4 = some .space ∧ parityOf 5 = none ∧ parityOf 6 = none ∧ parityOf 7 = none) ∧
  (stopBitsOf 0 = some .one ∧ stopBitsOf 1 = some .oneAndHalf ∧ stopBitsOf 2 = some .two ∧ stopBitsOf 3 = none)

/-- 30_encoding.md R63. -/
def Obligations.BaudTableGivesTheListedRates : Prop :=
  (baudRate 0 = 110 ∧ baudRate 1 = 150 ∧ baudRate 2 = 300 ∧ baudRate 3 = 600 ∧ baudRate 4 = 1200 ∧ baudRate 5 = 2400 ∧
    baudRate 6 = 4800 ∧ baudRate 7 = 9600 ∧ baudRate 8 = 14400 ∧ baudRate 9 = 19200 ∧ baudRate 10 = 28800 ∧
    baudRate 11 = 38400 ∧ baudRate 12 = 57600 ∧ baudRate 13 = 115200) ∧
  ∀ w : ConfigWord, 14 ≤ (w.extractLsb' 8 4).toNat ∨ 14 ≤ (w.extractLsb' 12 4).toNat → validConfig w = false

/-- 40_configuration.md R84, with the source's example S7: each rate depends on its own field, the two may differ, and a change
of one still clears the FIFO and both shift registers. -/
def Obligations.RatesAreIndependent : Prop :=
  (∀ (s : State) (w w' : ConfigWord), s.Running → validConfig w = true → validConfig w' = true →
    ∃ t t', exec (.cfg w) s = .next t ∧ exec (.cfg w') s = .next t' ∧
      t.txRate = baudRate (w.extractLsb' 8 4) ∧ t.rxRate = baudRate (w.extractLsb' 12 4) ∧
      (w.extractLsb' 8 4 = w'.extractLsb' 8 4 → t.txRate = t'.txRate) ∧
      (w.extractLsb' 12 4 = w'.extractLsb' 12 4 → t.rxRate = t'.rxRate) ∧
      t.fifo = [] ∧ t.empty = true ∧ t.txActive = false ∧ t.rxActive = false) ∧
  validConfig 0xD706#16 = true ∧ txRateOf 0xD706#16 = 9600 ∧ rxRateOf 0xD706#16 = 115200

/-- 20_memory.md R46 and 40_configuration.md R83: CFG applied twice gives what CFG applied once gives. -/
def Obligations.CfgIsIdempotent : Prop :=
  ∀ (s : State) (w : ConfigWord), s.Running → validConfig w = true →
    ∃ t, exec (.cfg w) s = .next t ∧ exec (.cfg w) t = .next t

/-- 40_configuration.md R87 (source property S3): CFG discards what is queued and both frames in flight, with no event, and the
next ENQ starts a fresh frame from idle in the new format. -/
def Obligations.ReconfigurationAbortsAndTheNextFrameIsFresh : Prop :=
  ∀ (s : State) (w : ConfigWord) (b : Byte), s.Running → validConfig w = true →
    ∃ t u, exec (.cfg w) s = .next t ∧ fifoCount t = 0 ∧ t.txActive = false ∧ t.rxActive = false ∧ t.txOut = mark ∧
      t.delivered = s.delivered ∧ t.overruns = s.overruns ∧ t.rxData = s.rxData ∧ t.rxStatus = s.rxStatus ∧
      exec (.enq b) t = .next u ∧ u.txActive = true ∧ u.txFrame = buildFrame (descriptor w) b ∧ u.txPos = 0 ∧
      u.empty = true ∧ ∀ i : SlotIndex, memRead u.fifo i = 0x00#8

/-! ### ENQ -/

/-- 41_transmit.md R93, with the two encodings of ENQ (R91, "Encoding"). -/
def Obligations.EnqueueBypassesAnIdleTransmitter : Prop :=
  (∀ (s : State) (b : Byte), s.Running → s.empty = true → s.head = s.tail → s.txActive = false →
    exec (.enq b) s = .next { s with txFrame := buildFrame s.fd b, txPos := 0, txActive := true }) ∧
  ∀ b : Byte, encode (.enq b) = 0x10000#18 ||| b.setWidth 18 ∧ (Pins.ofInstr (.enq b)).action = .run (.enq b)

/-- 41_transmit.md R94: both conditions of the append branch, the byte at the old `tail`, the other slots kept, `Count` one more,
and the full state when the last free slot is filled. -/
def Obligations.EnqueueAppendsAtTail : Prop :=
  ∀ (s : State) (b : Byte), s.Running →
    (s.empty = true ∧ s.head = s.tail ∧ s.txActive = true) ∨ (s.empty = false ∧ s.head ≠ s.tail) →
    ∃ t, exec (.enq b) s = .next t ∧
      t = { s with fifo := memWrite s.fifo s.tail b, tail := s.tail + 1, empty := false } ∧
      (s.fifo.wf = true → memRead t.fifo s.tail = b) ∧
      (∀ i : SlotIndex, i ≠ s.tail → memRead t.fifo i = memRead s.fifo i) ∧
      fifoCount t = fifoCount s + 1 ∧
      (fifoCount s + 1 = 16 → t.tail = t.head ∧ t.empty = false)

/-- 41_transmit.md R95: the branch is taken exactly in the full state, and only the event is recorded. -/
def Obligations.EnqueueDropsWhenFull : Prop :=
  (∀ (s : State) (b : Byte), s.Running → s.empty = false → s.head = s.tail →
    exec (.enq b) s = .next { s with overruns := s.overruns ++ [b] }) ∧
  ∀ (s t : State) (b : Byte), exec (.enq b) s = .next t → t.overruns ≠ s.overruns →
    s.empty = false ∧ s.head = s.tail ∧ fifoCount s = 16 ∧ t.overruns = s.overruns ++ [b]

/-- 41_transmit.md R92 and 60_exceptions.md R128: the fault means exactly `empty` = 1 with `head` not `tail`, changes nothing else,
and no state that meets the invariant raises it. That the ENQ which raises it answers a next state is the model's
reading (log 3). -/
def Obligations.EnqueuePreconditionFault : Prop :=
  (∀ (s : State) (b : Byte), s.Running → s.empty = true → s.head ≠ s.tail →
    exec (.enq b) s = .next { s with fault := some .fifoInvariant }) ∧
  (∀ (s t : State) (b : Byte), exec (.enq b) s = .next t → t.fault ≠ none → s.empty = true ∧ s.head ≠ s.tail) ∧
  ∀ (s t : State) (b : Byte), s.Inv → exec (.enq b) s = .next t → t.fault = none

/-- The frame of ENQ. The address stored to is `tail`, and only in the append branch (`enqAppends`) of an ENQ whose
precondition holds; every other slot, and every slot in the other branches, reads as before. -/
def Obligations.EnqueueFrame : Prop :=
  ∀ (s t : State) (b : Byte), exec (.enq b) s = .next t →
    t = { s with
      fifo := t.fifo, tail := t.tail, empty := t.empty, txActive := t.txActive, txFrame := t.txFrame, txPos := t.txPos
      fault := t.fault, overruns := t.overruns } ∧
    (∀ a : SlotIndex, ¬ (enqPrecondition s = true ∧ enqAppends s = true ∧ a = s.tail) →
      memRead t.fifo a = memRead s.fifo a) ∧
    (enqAppends s = false → t.fifo = s.fifo ∧ t.tail = s.tail ∧ t.empty = s.empty) ∧
    (enqBypasses s = false → t.txActive = s.txActive ∧ t.txFrame = s.txFrame ∧ t.txPos = s.txPos) ∧
    (enqPrecondition s = true → t.fault = s.fault) ∧
    (enqPrecondition s = false → t = { s with fault := some .fifoInvariant }) ∧
    (fifoFull s = false → t.overruns = s.overruns)

/-! ### TXTICK -/

/-- 30_encoding.md R77, 41_transmit.md R99, 42_receive.md R108: the two operations that change nothing. -/
def Obligations.TicksWithNothingToDoChangeNothing : Prop :=
  ∀ s : State, s.Running →
    (s.txActive = false → exec .txtick s = .next s) ∧ (s.rxActive = false → exec (.rxtick mark) s = .next s)

/-- 41_transmit.md R97 and R98: the outcomes of TXTICK at every position the 12-bit register has, its two encodings, and the rule's
example. -/
def Obligations.TransmitTickFollowsItsRule : Prop :=
  (∀ s : State, s.started = true →
    (∀ kind, s.fault = some kind → exec .txtick s = .fault kind) ∧
    (s.fault = none → s.txActive = false → exec .txtick s = .next s) ∧
    (s.fault = none → s.txActive = true → s.txPos.toNat < 12 → s.txPos.toNat + 1 ≠ frameLen s.fd →
      exec .txtick s = .next { s with txOut := s.txFrame.getLsbD s.txPos.toNat, txPos := s.txPos + 1 }) ∧
    (s.fault = none → s.txActive = true → s.txPos.toNat < 12 → s.txPos.toNat + 1 = frameLen s.fd → s.empty = false →
      exec .txtick s = .next { s with
        txOut := s.txFrame.getLsbD s.txPos.toNat
        txFrame := buildFrame s.fd (memRead s.fifo s.head), txPos := 0, txActive := true
        head := s.head + 1, empty := decide (s.head + 1 = s.tail) }) ∧
    (s.fault = none → s.txActive = true → s.txPos.toNat < 12 → s.txPos.toNat + 1 = frameLen s.fd → s.empty = true →
      exec .txtick s = .next { s with
        txOut := s.txFrame.getLsbD s.txPos.toNat, txActive := false, txPos := 0 })) ∧
  encode .txtick = 0x20000#18 ∧ (Pins.ofInstr .txtick).action = .run .txtick ∧
  ∃ t u, exec (.enq 0x41#8) State.reset = .next t ∧
    transmitTicks 10 t = some ([false, true, false, false, false, false, false, true, false, true], u) ∧ u.txActive = false

/-- The model's choice (log 8), for restored states only: TXTICK at a position the register does not have still completes; the
level driven is free, and below 15 the position advances by one. -/
def Obligations.TransmitTickCompletesAtEveryPosition : Prop :=
  ∀ s : State, s.Running → s.txActive = true → 12 ≤ s.txPos.toNat →
    ∃ t, exec .txtick s = .next t ∧
      (s.txPos.toNat < 15 → t = { s with txOut := t.txOut, txPos := s.txPos + 1 })

/-- The frame of TXTICK: no slot is stored to (20_memory.md R56), and the receive side, the configuration, the control lines and
the events stay. -/
def Obligations.TransmitTickFrame : Prop :=
  ∀ s t : State, exec .txtick s = .next t →
    t = { s with
      txOut := t.txOut, txPos := t.txPos, txFrame := t.txFrame, txActive := t.txActive, head := t.head, empty := t.empty } ∧
    (∀ a : SlotIndex, memRead t.fifo a = memRead s.fifo a) ∧
    (s.txActive = false → t = s) ∧
    (t.head ≠ s.head → s.empty = false ∧ t.head = s.head + 1 ∧ t.txActive = true) ∧
    (s.empty = true → t.head = s.head ∧ t.empty = s.empty ∧ t.txFrame = s.txFrame)

/-! ### RXTICK -/

/-- 42_receive.md R107 and R110: the outcomes of RXTICK at every position the 12-bit register has, what storing a sample means, its
two encodings, and the rule's example. -/
def Obligations.ReceiveTickFollowsItsRule : Prop :=
  (∀ (s : State) (v : Level), s.started = true →
    (∀ kind, s.fault = some kind → exec (.rxtick v) s = .fault kind) ∧
    (s.fault = none → s.rxActive = false → v = mark → exec (.rxtick v) s = .next s) ∧
    (s.fault = none → s.rxActive = false → v = space →
      exec (.rxtick v) s = .next { s with rxFrame := 0xFFE#12, rxPos := 1, rxActive := true }) ∧
    (s.fault = none → s.rxActive = true → s.rxPos.toNat < 12 → s.rxPos.toNat + 1 ≠ frameLen s.fd →
      exec (.rxtick v) s = .next { s with rxFrame := setLevel s.rxFrame s.rxPos.toNat v, rxPos := s.rxPos + 1 }) ∧
    (s.fault = none → s.rxActive = true → s.rxPos.toNat < 12 → s.rxPos.toNat + 1 = frameLen s.fd →
      exec (.rxtick v) s = .next { s with
        rxFrame := setLevel s.rxFrame s.rxPos.toNat v
        rxData := (extractFrame s.fd (setLevel s.rxFrame s.rxPos.toNat v)).byte
        rxStatus := (extractFrame s.fd (setLevel s.rxFrame s.rxPos.toNat v)).status
        rxActive := false, rxPos := 0
        delivered := s.delivered ++ [extractFrame s.fd (setLevel s.rxFrame s.rxPos.toNat v)] })) ∧
  (∀ (f : FrameBits) (i : Nat) (v : Level) (j : Nat), j < 12 →
    (setLevel f i v).getLsbD j = if j = i then v else f.getLsbD j) ∧
  (∀ v : Level, encode (.rxtick v) = 0x30000#18 ||| (BitVec.ofBool v).setWidth 18 ∧
    (Pins.ofInstr (.rxtick v)).action = .run (.rxtick v)) ∧
  ∃ t, receiveTicks [false, true, false, false, false, false, false, true, false, true] State.reset = .next t ∧
    t.rxActive = false ∧ t.rxPos = 0 ∧ t.rxData = 0x41#8 ∧ t.rxStatus = 0b00#2 ∧ t.delivered = [⟨0x41#8, 0b00#2⟩]

/-- The model's choice (log 8), for restored states only: RXTICK at a position the register does not have still completes; the
register is free, and below 15 the position advances by one. -/
def Obligations.ReceiveTickCompletesAtEveryPosition : Prop :=
  ∀ (s : State) (v : Level), s.Running → s.rxActive = true → 12 ≤ s.rxPos.toNat →
    ∃ t, exec (.rxtick v) s = .next t ∧
      (s.rxPos.toNat < 15 → t = { s with rxFrame := t.rxFrame, rxPos := s.rxPos + 1 })

/-- The frame of RXTICK (42_receive.md R107, R120): no slot is stored to, nothing of the transmit side, the configuration or a line
changes, no fault is raised, and the holding register changes only with a Deliver. -/
def Obligations.ReceiveTickFrame : Prop :=
  ∀ (s t : State) (v : Level), exec (.rxtick v) s = .next t →
    t = { s with
      rxActive := t.rxActive, rxFrame := t.rxFrame, rxPos := t.rxPos, rxData := t.rxData, rxStatus := t.rxStatus
      delivered := t.delivered } ∧
    (∀ a : SlotIndex, memRead t.fifo a = memRead s.fifo a) ∧
    (t.delivered = s.delivered → t.rxData = s.rxData ∧ t.rxStatus = s.rxStatus) ∧
    (t.delivered ≠ s.delivered →
      t.delivered = s.delivered ++ [⟨t.rxData, t.rxStatus⟩] ∧ s.rxActive = true ∧ t.rxActive = false ∧ t.rxPos = 0)

/-- The frame of CFG (40_configuration.md R81, R86, R88): a legal word stores zero to every slot and leaves the holding register,
the fault and the events; an illegal word leaves everything but the fault. -/
def Obligations.CfgFrame : Prop :=
  ∀ (s t : State) (w : ConfigWord), exec (.cfg w) s = .next t →
    (validConfig w = true →
      t.rxData = s.rxData ∧ t.rxStatus = s.rxStatus ∧ t.fault = s.fault ∧ t.delivered = s.delivered ∧
      t.overruns = s.overruns ∧ t.started = s.started ∧ t.pending = s.pending ∧ t.draws = s.draws ∧
      ∀ a : SlotIndex, memRead t.fifo a = 0x00#8) ∧
    (validConfig w = false →
      t = { s with fault := t.fault } ∧ ∀ a : SlotIndex, memRead t.fifo a = memRead s.fifo a)

/-! ### Frames and status -/

/-- 30_encoding.md R70 with its examples: the level at every position of a built frame. -/
def Obligations.BuiltFramesHaveTheFieldsInOrder : Prop :=
  (∀ (fd : FrameDescriptor) (b : Byte),
    (buildFrame fd b).getLsbD 0 = space ∧
    (∀ i, i < dataCount fd.dataBits → (buildFrame fd b).getLsbD (1 + i) = b.getLsbD i) ∧
    (∀ p, parityBit fd b = some p → (buildFrame fd b).getLsbD (1 + dataCount fd.dataBits) = p) ∧
    (∀ j, 1 + dataCount fd.dataBits + parityTicks fd.parity ≤ j → j ≤ 11 → (buildFrame fd b).getLsbD j = mark)) ∧
  buildFrame ⟨.one, .eight, .none, .one⟩ 0x41#8 = 0xE82#12 ∧
  buildFrame ⟨.one, .eight, .none, .one⟩ 0x00#8 = 0xE00#12 ∧
  buildFrame ⟨.one, .eight, .none, .one⟩ 0xFF#8 = 0xFFE#12

/-- 30_encoding.md R69: with the parity bit the ones are odd (Odd) or even (Even) in number; Mark is 1, Space is 0, None has no
bit; and only the data bits sent are counted. -/
def Obligations.ParityBitsMakeTheCountOddOrEven : Prop :=
  ∀ (fd : FrameDescriptor) (b : Byte),
    (fd.parity = .none → parityBit fd b = none) ∧
    (fd.parity = .odd → ∃ p, parityBit fd b = some p ∧ (onesIn (dataCount fd.dataBits) b + p.toNat) % 2 = 1) ∧
    (fd.parity = .even → ∃ p, parityBit fd b = some p ∧ (onesIn (dataCount fd.dataBits) b + p.toNat) % 2 = 0) ∧
    (fd.parity = .mark → parityBit fd b = some true) ∧
    (fd.parity = .space → parityBit fd b = some false) ∧
    onesIn (dataCount fd.dataBits) b = ((List.range (dataCount fd.dataBits)).map fun i => (b.getLsbD i).toNat).sum

/-- 30_encoding.md R67 and R68: the formula, the bounds, that both are reached, the default, and that 1.5 and 2 stop bits behave
alike. -/
def Obligations.FrameLengthsAreSevenToTwelve : Prop :=
  (∀ fd : FrameDescriptor,
    frameLen fd = 1 + dataCount fd.dataBits + (if fd.parity = .none then 0 else 1) +
      (match fd.stopBits with | .one => 1 | .oneAndHalf => 2 | .two => 2) ∧
    7 ≤ frameLen fd ∧ frameLen fd ≤ 12) ∧
  frameLen ⟨.one, .five, .none, .one⟩ = 7 ∧ frameLen ⟨.one, .eight, .even, .two⟩ = 12 ∧
  frameLen ⟨.one, .eight, .none, .one⟩ = 10 ∧
  ∀ (a : StartBits) (d : DataBits) (p : Parity),
    frameLen ⟨a, d, p, .oneAndHalf⟩ = frameLen ⟨a, d, p, .two⟩ ∧
    (∀ b, buildFrame ⟨a, d, p, .oneAndHalf⟩ b = buildFrame ⟨a, d, p, .two⟩ b) ∧
    ∀ f, extractFrame ⟨a, d, p, .oneAndHalf⟩ f = extractFrame ⟨a, d, p, .two⟩ f

/-- 30_encoding.md R71 and R72: each bit of the data and of the status, and that extraction undoes the formatter. -/
def Obligations.ExtractionInvertsTheFormatter : Prop :=
  ∀ fd : FrameDescriptor,
    (∀ f : FrameBits,
      (∀ i, i < 8 → (extractFrame fd f).byte.getLsbD i = (decide (i < dataCount fd.dataBits) && f.getLsbD (1 + i))) ∧
      ((extractFrame fd f).status.getLsbD 0 = true ↔
        ∃ p, parityBit fd (extractFrame fd f).byte = some p ∧ f.getLsbD (1 + dataCount fd.dataBits) ≠ p) ∧
      ((extractFrame fd f).status.getLsbD 1 = true ↔
        ∃ j, 1 + dataCount fd.dataBits + parityTicks fd.parity ≤ j ∧ j < frameLen fd ∧ f.getLsbD j = false)) ∧
    ∀ b : Byte, extractFrame fd (buildFrame fd b) = ⟨(b.setWidth (dataCount fd.dataBits)).setWidth 8, 0b00#2⟩

/-- 41_transmit.md R103: the bits of a byte above the data bits do not reach the frame. -/
def Obligations.NarrowFramesIgnoreHighBits : Prop :=
  (∀ (fd : FrameDescriptor) (b c : Byte), (∀ i, i < dataCount fd.dataBits → b.getLsbD i = c.getLsbD i) →
    buildFrame fd b = buildFrame fd c) ∧
  ∀ (fd : FrameDescriptor) (b c : Byte), buildFrame fd b = buildFrame fd c → sentByte fd b = sentByte fd c

/-! ### Whole-machine rules -/

/-- 60_exceptions.md R126: a faulted engine answers its fault to every operation; a raising operation has no other effect; of the
operations only RESET clears the fault; a faulted state is not the end of a run. -/
def Obligations.FaultsArePreciseAndOnlyResetClearsThem : Prop :=
  (∀ (s : State) (i : Instr) (kind : Fault), s.started = true → s.fault = some kind → exec i s = .fault kind) ∧
  (∀ (s t : State) (i : Instr), exec i s = .next t → t.fault ≠ none → t = { s with fault := t.fault }) ∧
  (∀ (s t : State) (x : Input) (rest : List Input), s.pending = x :: rest → (∀ c o, x ≠ .restore c o) → step s = .next t →
    s.fault ≠ none → t.fault = s.fault ∨ (t.fault = none ∧ x.action = .reset)) ∧
  ∀ s : State, s.fault ≠ none → ¬ s.Quiescent ∧ ¬ s.Finished

/-- 60_exceptions.md R120 and R121, from every state that meets the invariant: an operation within the contract runs to completion
and raises nothing. -/
def Obligations.ContractOperationsNeverFault : Prop :=
  ∀ (s : State) (i : Instr), s.Inv → s.Running → i.wellFormed = true → ∃ t, exec i s = .next t ∧ t.Running ∧ t.Inv

/-- 41_transmit.md R90: the transitions of the transmit side. -/
def Obligations.OnlyTheTabledEventsMoveTheTransmitter : Prop :=
  ∀ (s t : State) (i : Instr), exec i s = .next t →
    (s.txActive = false → t.txActive = true → ∃ b, i = .enq b ∧ s.empty = true ∧ t.txFrame = buildFrame s.fd b) ∧
    (s.txActive = true → t.txActive = false →
      (i = .txtick ∧ s.empty = true ∧ (nextPosition s.draws s.txPos).toNat = frameLen s.fd) ∨
      ∃ w, i = .cfg w ∧ validConfig w = true)

/-- 42_receive.md R106: the transitions of the receive side. -/
def Obligations.OnlyTheTabledEventsMoveTheReceiver : Prop :=
  ∀ (s t : State) (i : Instr), exec i s = .next t →
    (s.rxActive = false → t.rxActive = true → i = .rxtick space ∧ t.rxPos = 1 ∧ t.rxFrame.getLsbD 0 = space) ∧
    (s.rxActive = true → t.rxActive = false →
      (∃ v, i = .rxtick v ∧ (nextPosition s.draws s.rxPos).toNat = frameLen s.fd ∧
        t.delivered = s.delivered ++ [⟨t.rxData, t.rxStatus⟩]) ∨
      ∃ w, i = .cfg w ∧ validConfig w = true)

/-- 10_state.md R21, R31, R32: of the four operations only CFG writes the configuration and the control lines, and only with a
legal word; the transmit line is driven by CFG and by TXTICK while Shifting. -/
def Obligations.OnlyCfgWritesConfigurationAndControlLines : Prop :=
  ∀ (s t : State) (i : Instr), exec i s = .next t →
    (t.cfg ≠ s.cfg ∨ t.dcd ≠ s.dcd ∨ t.dsr ≠ s.dsr ∨ t.cts ≠ s.cts →
      ∃ w, i = .cfg w ∧ validConfig w = true ∧ t.cfg = w ∧ t.dcd = space ∧ t.dsr = space ∧ t.cts = space) ∧
    (t.txOut ≠ s.txOut → (∃ w, i = .cfg w ∧ t.txOut = mark) ∨ (i = .txtick ∧ s.txActive = true))

/-- 10_state.md R35 and R34: an operation produces at most one event, Deliver only by RXTICK and OverrunDiag only by ENQ, and the
output ports show exactly that event, with the holding register on its ports whether or not there is one (R18, R19). -/
def Obligations.EachOperationProducesAtMostOneEvent : Prop :=
  ∀ (s t : State) (i : Instr), exec i s = .next t →
    ((outputs s t).rxData = t.rxData ∧ (outputs s t).rxStatus = t.rxStatus) ∧
    ((t.delivered = s.delivered ∧ t.overruns = s.overruns ∧ (outputs s t).deliverValid = false ∧
        (outputs s t).overrun = none) ∨
      (∃ v, i = .rxtick v ∧ t.delivered = s.delivered ++ [⟨t.rxData, t.rxStatus⟩] ∧ t.overruns = s.overruns ∧
        (outputs s t).deliverValid = true ∧ (outputs s t).overrun = none) ∨
      ∃ b, i = .enq b ∧ t.overruns = s.overruns ++ [b] ∧ t.delivered = s.delivered ∧
        (outputs s t).deliverValid = false ∧ (outputs s t).overrun = some b)

/-- 42_receive.md R106: the two directions "operate independently": a transmit tick and a receive tick give the same state in
either order. At a position the registers lack (restored states only) the ticks leave free values, so the statement asks for
positions they have. -/
def Obligations.TheTwoDirectionsCommute : Prop :=
  ∀ (s : State) (v : Level), s.Running → s.txPos.toNat < 12 → s.rxPos.toNat < 12 →
    ∃ t u w, exec .txtick s = .next t ∧ exec (.rxtick v) t = .next w ∧
      exec (.rxtick v) s = .next u ∧ exec .txtick u = .next w

/-- 10_state.md R18, R32, R35 and 93_implementation_defined.md U4: no operation reads the holding register, the control lines or
the recorded events. Two states that differ only there answer alike, append the same events and show the same on every output
port but those of the holding register and of the control lines. The values the model gives `rxData` and `rxStatus` at reset
(log 5) do show on their two ports, in every step until the first Deliver; they reach nothing else. Both states have the same
`draws` and so the same free values (log 8). -/
def Obligations.NoOperationReadsTheHoldingRegister : Prop :=
  ∀ (s s' : State) (i : Instr), s.agreesBehind s' →
    (∀ kind, exec i s = .fault kind → exec i s' = .fault kind) ∧
    (∀ r, exec i s = .refused r → exec i s' = .refused r) ∧
    ∀ t, exec i s = .next t → ∃ t', exec i s' = .next t' ∧ t.agreesBehind t' ∧
      (∃ ds os, t.delivered = s.delivered ++ ds ∧ t'.delivered = s'.delivered ++ ds ∧
        t.overruns = s.overruns ++ os ∧ t'.overruns = s'.overruns ++ os) ∧
      outputs s' t' = { outputs s t with
        rxData := t'.rxData, rxStatus := t'.rxStatus, dcd := t'.dcd, dsr := t'.dsr, cts := t'.cts }

/-- 70_reset_and_hazards.md R147 and 92_eei_decisions.md D30: a quiescent engine owes nothing, and ticks on an idle line change
nothing; a finished run stays finished under them, and a state with ENQ or CFG to come, a fault, a frame on the wire or bytes
queued is not finished (log 18). -/
def Obligations.QuiescenceIsStable : Prop :=
  (∀ s : State, s.started = true → s.Quiescent →
    exec .txtick s = .next s ∧ exec (.rxtick mark) s = .next s ∧ fifoCount s = 0) ∧
  (∀ (s : State) (x : Input) (rest : List Input), s.started = true → s.Finished → s.pending = x :: rest →
    x.action = .run .txtick ∨ x.action = .run (.rxtick mark) →
    ∃ t, step s = .next t ∧ t = { s with pending := rest, draws := s.draws + 1 } ∧ t.Finished) ∧
  (∀ (s : State) (x : Input) (b : Byte) (w : ConfigWord), x ∈ s.pending →
    x.action = .run (.enq b) ∨ x.action = .run (.cfg w) → ¬ s.Finished) ∧
  ∀ s : State, s.fault ≠ none ∨ s.txActive = true ∨ s.empty = false ∨ s.rxActive = true → ¬ s.Finished

/-- 70_reset_and_hazards.md R154 (b): a restored transmitter that is Idle with bytes queued stays stuck under ENQ and ticks. -/
def Obligations.IdleTransmitterWithQueuedBytesIsStuck : Prop :=
  ∀ (s t : State) (i : Instr), s.txActive = false → s.empty = false → (∀ w, i ≠ .cfg w) → exec i s = .next t →
    t.txActive = false ∧ t.empty = false ∧ queuedBytes s <+: queuedBytes t ∧ t.txOut = s.txOut

/-! ### Steps, words and pins -/

/-- 00_scope.md R9, 30_encoding.md R57: when the next input is a command word that decodes, the step is the instruction's own
effect, on the state with the input taken (and the model's counter moved on, log 8). With nothing presented nothing changes
(log 2). -/
def Obligations.StepRunsTheDecodedInstruction : Prop :=
  (∀ (s : State) (w : Word) (rest : List Input) (i : Instr), s.pending = .command w :: rest → decode w = .ok i →
    step s = exec i { s with pending := rest, draws := s.draws + 1 }) ∧
  ∀ s : State, s.pending = [] → step s = .next s

/-- 30_encoding.md R75: which words are reserved, and that a step refuses them. -/
def Obligations.ReservedWordsAreRefused : Prop :=
  (∀ w : Word, decode w = .error .reservedCommand ↔
    (w.extractLsb' 16 2 = 0b01#2 ∧ w.extractLsb' 8 8 ≠ 0#8) ∨
    (w.extractLsb' 16 2 = 0b10#2 ∧ w.extractLsb' 0 16 ≠ 0#16) ∨
    (w.extractLsb' 16 2 = 0b11#2 ∧ w.extractLsb' 1 15 ≠ 0#15)) ∧
  ∀ (s : State) (w : Word) (rest : List Input), s.pending = .command w :: rest → decode w = .error .reservedCommand →
    step s = .refused .reservedCommand

/-- 20_memory.md R45: two strobes in one step are refused; with none active only the input is taken (log 2). -/
def Obligations.TwoStrobesAreRefused : Prop :=
  ∀ (s : State) (p : Pins) (rest : List Input), s.pending = .pins p :: rest →
    (2 ≤ [p.reset, p.cfgStrobe, p.enqStrobe, p.txTick, p.rxTick].count true →
      step s = .refused .simultaneousOperations) ∧
    ([p.reset, p.cfgStrobe, p.enqStrobe, p.txTick, p.rxTick].count true = 0 →
      step s = .next { s with pending := rest, draws := s.draws + 1 })

/-- 30_encoding.md R57, 10_state.md R34: the pin form of an operation, whatever the data pins of the other strobes show, steps as
its command word does. -/
def Obligations.PinFormAndCommandWordAgree : Prop :=
  ∀ (s : State) (p : Pins) (i : Instr) (rest : List Input), p.strobes = [.run i] →
    step { s with pending := .pins p :: rest } = step { s with pending := .command (encode i) :: rest }

/-- 30_encoding.md R59: decoding and encoding are inverse, for every operation with every operand. -/
def Obligations.DecodeAndEncodeAgree : Prop :=
  ∀ (w : Word) (i : Instr), decode w = .ok i ↔ encode i = w

/-- 30_encoding.md R59, words written out bit by bit from the patterns (and listed in 95_test_vectors.md 2.1). -/
def Obligations.WrittenWordsDecode : Prop :=
  decode 0b000111011100000110#18 = .ok (.cfg 0x7706#16) ∧
  decode 0b010000000001000001#18 = .ok (.enq 0x41#8) ∧
  decode 0b100000000000000000#18 = .ok .txtick ∧
  decode 0b110000000000000000#18 = .ok (.rxtick false) ∧
  decode 0b110000000000000001#18 = .ok (.rxtick true) ∧
  decode 0b010000000100000000#18 = .error .reservedCommand ∧
  decode 0b100000000000000001#18 = .error .reservedCommand ∧
  decode 0b110000000000000010#18 = .error .reservedCommand

/-- 10_state.md R29 and R36, by induction on the steps: every step from a state that meets the invariant gives a state that meets
it, whatever is presented, RESET, illegal words and lawful restores among it. -/
def Obligations.EveryStepKeepsTheInvariant : Prop :=
  ∀ s t : State, s.Inv → step s = .next t → t.Inv

/-- 10_state.md R37 and 70_reset_and_hazards.md R154: a checkpoint restored with the omitted elements kept resumes exactly; a restore
writes exactly what it is given; and a lawful one leaves a lawful state. -/
def Obligations.RestoreResumesFromACheckpoint : Prop :=
  (∀ s : State, s.fifo.wf = true → restoreState (saveCheckpoint s) (omittedOf s) s = s) ∧
  (∀ (s : State) (c : Checkpoint) (o : Omitted), s.started = true →
    ∃ t, applyRestore c o s = .next t ∧ saveCheckpoint t = c ∧ omittedOf t = o ∧
      t.delivered = s.delivered ∧ t.overruns = s.overruns ∧
      ((Input.restore c o).Lawful → t.Lawful))

/-- 30_encoding.md R79: a keyword CFG whose rates are in the table gives a legal word that selects what the keywords say; with
every keyword left out it is the default word. -/
def Obligations.KeywordConfigurationSelectsWhatItSays : Prop :=
  (∀ (k : CfgKeywords) (w : ConfigWord), k.word = some w →
    validConfig w = true ∧ descriptor w = ⟨.one, k.data, k.parity, k.stop⟩ ∧ txRateOf w = k.txBaud ∧ rxRateOf w = k.rxBaud) ∧
  (∀ k : CfgKeywords, k.txBaud ∈ baudTable → k.rxBaud ∈ baudTable → ∃ w, k.word = some w) ∧
  CfgKeywords.word {} = some 0x7706#16

/-! ### Runs -/

/-- 20_memory.md R49, R55 and 10_state.md R30: the FIFO with its indices and flag behaves as a queue of at most sixteen bytes beside
the byte in the shift register. -/
def Obligations.TheFifoIsABoundedQueue : Prop :=
  ∀ s t : State, s.Inv → s.Running →
    (∀ b, exec (.enq b) s = .next t → s.txActive = false →
      queuedBytes s = [] ∧ queuedBytes t = [] ∧ t.txActive = true ∧ t.txFrame = buildFrame s.fd b) ∧
    (∀ b, exec (.enq b) s = .next t → s.txActive = true → (queuedBytes s).length < 16 →
      queuedBytes t = queuedBytes s ++ [b] ∧ t.overruns = s.overruns) ∧
    (∀ b, exec (.enq b) s = .next t → s.txActive = true → ¬ (queuedBytes s).length < 16 →
      queuedBytes t = queuedBytes s ∧ t.overruns = s.overruns ++ [b]) ∧
    (exec .txtick s = .next t → s.txActive = true → s.txPos.toNat + 1 ≠ frameLen s.fd → queuedBytes t = queuedBytes s) ∧
    (exec .txtick s = .next t → s.txActive = true → s.txPos.toNat + 1 = frameLen s.fd → queuedBytes s = [] →
      queuedBytes t = [] ∧ t.txActive = false) ∧
    (∀ b q, exec .txtick s = .next t → s.txActive = true → s.txPos.toNat + 1 = frameLen s.fd → queuedBytes s = b :: q →
      queuedBytes t = q ∧ t.txActive = true ∧ t.txFrame = buildFrame s.fd b ∧ t.txPos = 0) ∧
    (∀ v, exec (.rxtick v) s = .next t → queuedBytes t = queuedBytes s) ∧
    (queuedBytes s).length = fifoCount s ∧ fifoCount s ≤ 16

/-- 41_transmit.md R102 and R104: a byte enqueued while the transmitter is idle appears on the line, one bit a tick, as the frame
the formatter builds; until the first tick the line stays at mark, and after the last the transmitter is idle again. -/
def Obligations.AnIdleTransmitterSendsTheWholeFrame : Prop :=
  ∀ (s : State) (b : Byte), s.Inv → s.Running → s.txActive = false →
    ∃ t u, exec (.enq b) s = .next t ∧ t.txOut = mark ∧
      transmitTicks (frameLen s.fd) t = some (frameLevels s.fd (buildFrame s.fd b), u) ∧
      u.txActive = false ∧ u.txOut = mark ∧ u.txPos = 0 ∧ u.empty = true

/-- 42_receive.md R108 to R110, R117: a 0 sampled while Listening commits the receiver to exactly `FrameLen` samples, whatever they
are, and the last of them delivers what was sampled, once. -/
def Obligations.AReceivedFrameIsDeliveredOnce : Prop :=
  ∀ (s : State) (vs : List Level), s.Running → s.rxActive = false → vs.length + 1 = frameLen s.fd →
    (∃ t, receiveTicks (space :: vs) s = .next t ∧ t.rxActive = false ∧ t.rxPos = 0 ∧
      t.delivered = s.delivered ++ [extractFrame s.fd (sampledFrame (space :: vs))] ∧
      t.rxFrame = sampledFrame (space :: vs)) ∧
    ∀ n, n < vs.length → ∃ t, receiveTicks (space :: vs.take n) s = .next t ∧ t.rxActive = true ∧ t.delivered = s.delivered

/-- 42_receive.md R116 and R117: a line held at 0 delivers a zero byte with a framing error every `FrameLen` ticks; a single 0 on
an idle line delivers a byte with every data bit set and no framing error. -/
def Obligations.HeldLowAndGlitchedLinesDeliverAsTheRulesSay : Prop :=
  ∀ s : State, s.Running → s.rxActive = false →
    (∃ t d, receiveTicks (List.replicate (frameLen s.fd) space) s = .next t ∧ t.rxActive = false ∧
      t.delivered = s.delivered ++ [d] ∧ d.byte = 0x00#8 ∧ d.status.getLsbD 1 = true ∧
      d.status.getLsbD 0 = decide (s.fd.parity = .odd ∨ s.fd.parity = .mark)) ∧
    (∃ t d, receiveTicks (space :: List.replicate (frameLen s.fd - 1) mark) s = .next t ∧ t.rxActive = false ∧
      t.delivered = s.delivered ++ [d] ∧ d.byte = sentByte s.fd 0xFF#8 ∧ d.status.getLsbD 1 = false ∧
      d.status.getLsbD 0 = decide (parityBit s.fd 0xFF#8 = some false))

/-- 42_receive.md R115, the source's round trip (S4) for every byte and every configuration: with the line looped back, a byte
enqueued while both sides are idle is delivered in the `FrameLen`-th bit-time, not before, with a clean status. -/
def Obligations.LoopbackDeliversEveryByte : Prop :=
  ∀ (s : State) (b : Byte), s.Inv → s.started = true → s.Quiescent →
    ∃ t u, applyInput (.command (encode (.enq b))) s = .next t ∧
      (∀ n, n < frameLen s.fd → ∃ v, loopBack n t = .next v ∧ v.delivered = s.delivered) ∧
      loopBack (frameLen s.fd) t = .next u ∧
      u.delivered = s.delivered ++ [⟨(b.setWidth (dataCount s.fd.dataBits)).setWidth 8, 0b00#2⟩] ∧ u.Quiescent

/-- 41_transmit.md R101 (a) and (b), the source's property S2 with conflict C6: while Shifting with an empty FIFO sixteen ENQs in a
row are accepted and the next is dropped; from Idle seventeen are accepted and the eighteenth is dropped. -/
def Obligations.SaturationDropsExactlyTheByteBeyondCapacity : Prop :=
  (∀ (s : State) (bs : List Byte) (b : Byte), s.Inv → s.Running → s.txActive = true → s.empty = true → bs.length = 16 →
    ∃ t u, execAll (bs.map .enq) s = .next t ∧ queuedBytes t = bs ∧ t.overruns = s.overruns ∧
      exec (.enq b) t = .next u ∧ queuedBytes u = bs ∧ u.overruns = s.overruns ++ [b]) ∧
  ∀ (s : State) (b₀ : Byte) (bs : List Byte) (b : Byte), s.Inv → s.Running → s.txActive = false → bs.length = 16 →
    ∃ t u, execAll ((b₀ :: bs).map .enq) s = .next t ∧ t.txFrame = buildFrame s.fd b₀ ∧ queuedBytes t = bs ∧
      t.overruns = s.overruns ∧ exec (.enq b) t = .next u ∧ queuedBytes u = bs ∧ u.overruns = s.overruns ++ [b]

/-- 70_reset_and_hazards.md R150, with 20_memory.md R55 and 41_transmit.md R102: with ticks and no ENQ the line carries the rest of the
frame in flight and then the frames of the queued bytes in order, with nothing between them, and the transmitter is idle after
exactly the ticks they take, at most `(Count + 1) * FrameLen`. -/
def Obligations.TheQueueDrainsInBoundedTicks : Prop :=
  ∀ s : State, s.Inv → s.Running → s.txActive = true →
    ∃ u, transmitTicks ((fifoCount s + 1) * frameLen s.fd - s.txPos.toNat) s =
        some ((frameLevels s.fd s.txFrame).drop s.txPos.toNat ++
          (queuedBytes s).flatMap (fun b => frameLevels s.fd (buildFrame s.fd b)), u) ∧
      u.txActive = false ∧ u.empty = true ∧ u.txOut = mark
end

