-- ==== Sys2Proof/Laws/State.lean ====
section
/-! SUPPORT. The fields of every update of the state, one lemma per field per update, each true by rfl. -/

namespace Sys2Proof.Machine

/-! ### `configure`: CFG -/

@[simp] theorem configure_cfg (w : ConfigWord) (s : State) : (configure w s).cfg = w := rfl
@[simp] theorem configure_fifo (w : ConfigWord) (s : State) : (configure w s).fifo = memClear := rfl
@[simp] theorem configure_head (w : ConfigWord) (s : State) : (configure w s).head = 0 := rfl
@[simp] theorem configure_tail (w : ConfigWord) (s : State) : (configure w s).tail = 0 := rfl
@[simp] theorem configure_empty (w : ConfigWord) (s : State) : (configure w s).empty = true := rfl
@[simp] theorem configure_txActive (w : ConfigWord) (s : State) : (configure w s).txActive = false := rfl
@[simp] theorem configure_txFrame (w : ConfigWord) (s : State) : (configure w s).txFrame = Config.idleFrame := rfl
@[simp] theorem configure_txPos (w : ConfigWord) (s : State) : (configure w s).txPos = 0 := rfl
@[simp] theorem configure_txOut (w : ConfigWord) (s : State) : (configure w s).txOut = mark := rfl
@[simp] theorem configure_rxActive (w : ConfigWord) (s : State) : (configure w s).rxActive = false := rfl
@[simp] theorem configure_rxFrame (w : ConfigWord) (s : State) : (configure w s).rxFrame = Config.idleFrame := rfl
@[simp] theorem configure_rxPos (w : ConfigWord) (s : State) : (configure w s).rxPos = 0 := rfl
@[simp] theorem configure_rxData (w : ConfigWord) (s : State) : (configure w s).rxData = s.rxData := rfl
@[simp] theorem configure_rxStatus (w : ConfigWord) (s : State) : (configure w s).rxStatus = s.rxStatus := rfl
@[simp] theorem configure_dcd (w : ConfigWord) (s : State) : (configure w s).dcd = Config.auxDcd := rfl
@[simp] theorem configure_dsr (w : ConfigWord) (s : State) : (configure w s).dsr = Config.auxDsr := rfl
@[simp] theorem configure_cts (w : ConfigWord) (s : State) : (configure w s).cts = Config.auxCts := rfl
@[simp] theorem configure_fault (w : ConfigWord) (s : State) : (configure w s).fault = s.fault := rfl
@[simp] theorem configure_delivered (w : ConfigWord) (s : State) : (configure w s).delivered = s.delivered := rfl
@[simp] theorem configure_overruns (w : ConfigWord) (s : State) : (configure w s).overruns = s.overruns := rfl
@[simp] theorem configure_started (w : ConfigWord) (s : State) : (configure w s).started = s.started := rfl
@[simp] theorem configure_pending (w : ConfigWord) (s : State) : (configure w s).pending = s.pending := rfl
@[simp] theorem configure_draws (w : ConfigWord) (s : State) : (configure w s).draws = s.draws := rfl

/-! ### `clearFault`: the way back from a fault -/

@[simp] theorem clearFault_cfg (s : State) : (clearFault s).cfg = s.cfg := rfl
@[simp] theorem clearFault_fifo (s : State) : (clearFault s).fifo = s.fifo := rfl
@[simp] theorem clearFault_head (s : State) : (clearFault s).head = s.head := rfl
@[simp] theorem clearFault_tail (s : State) : (clearFault s).tail = s.tail := rfl
@[simp] theorem clearFault_empty (s : State) : (clearFault s).empty = s.empty := rfl
@[simp] theorem clearFault_txActive (s : State) : (clearFault s).txActive = s.txActive := rfl
@[simp] theorem clearFault_txFrame (s : State) : (clearFault s).txFrame = s.txFrame := rfl
@[simp] theorem clearFault_txPos (s : State) : (clearFault s).txPos = s.txPos := rfl
@[simp] theorem clearFault_txOut (s : State) : (clearFault s).txOut = s.txOut := rfl
@[simp] theorem clearFault_rxActive (s : State) : (clearFault s).rxActive = s.rxActive := rfl
@[simp] theorem clearFault_rxFrame (s : State) : (clearFault s).rxFrame = s.rxFrame := rfl
@[simp] theorem clearFault_rxPos (s : State) : (clearFault s).rxPos = s.rxPos := rfl
@[simp] theorem clearFault_rxData (s : State) : (clearFault s).rxData = s.rxData := rfl
@[simp] theorem clearFault_rxStatus (s : State) : (clearFault s).rxStatus = s.rxStatus := rfl
@[simp] theorem clearFault_dcd (s : State) : (clearFault s).dcd = s.dcd := rfl
@[simp] theorem clearFault_dsr (s : State) : (clearFault s).dsr = s.dsr := rfl
@[simp] theorem clearFault_cts (s : State) : (clearFault s).cts = s.cts := rfl
@[simp] theorem clearFault_fault (s : State) : (clearFault s).fault = none := rfl
@[simp] theorem clearFault_delivered (s : State) : (clearFault s).delivered = s.delivered := rfl
@[simp] theorem clearFault_overruns (s : State) : (clearFault s).overruns = s.overruns := rfl
@[simp] theorem clearFault_started (s : State) : (clearFault s).started = s.started := rfl
@[simp] theorem clearFault_pending (s : State) : (clearFault s).pending = s.pending := rfl
@[simp] theorem clearFault_draws (s : State) : (clearFault s).draws = s.draws := rfl

/-! ### `applyReset`: RESET -/

@[simp] theorem applyReset_cfg (s : State) : (applyReset s).cfg = Config.cfgReset := rfl
@[simp] theorem applyReset_fifo (s : State) : (applyReset s).fifo = memClear := rfl
@[simp] theorem applyReset_head (s : State) : (applyReset s).head = 0 := rfl
@[simp] theorem applyReset_tail (s : State) : (applyReset s).tail = 0 := rfl
@[simp] theorem applyReset_empty (s : State) : (applyReset s).empty = true := rfl
@[simp] theorem applyReset_txActive (s : State) : (applyReset s).txActive = false := rfl
@[simp] theorem applyReset_txFrame (s : State) : (applyReset s).txFrame = Config.idleFrame := rfl
@[simp] theorem applyReset_txPos (s : State) : (applyReset s).txPos = 0 := rfl
@[simp] theorem applyReset_txOut (s : State) : (applyReset s).txOut = mark := rfl
@[simp] theorem applyReset_rxActive (s : State) : (applyReset s).rxActive = false := rfl
@[simp] theorem applyReset_rxFrame (s : State) : (applyReset s).rxFrame = Config.idleFrame := rfl
@[simp] theorem applyReset_rxPos (s : State) : (applyReset s).rxPos = 0 := rfl
@[simp] theorem applyReset_rxData (s : State) : (applyReset s).rxData = s.rxData := rfl
@[simp] theorem applyReset_rxStatus (s : State) : (applyReset s).rxStatus = s.rxStatus := rfl
@[simp] theorem applyReset_dcd (s : State) : (applyReset s).dcd = Config.auxDcd := rfl
@[simp] theorem applyReset_dsr (s : State) : (applyReset s).dsr = Config.auxDsr := rfl
@[simp] theorem applyReset_cts (s : State) : (applyReset s).cts = Config.auxCts := rfl
@[simp] theorem applyReset_fault (s : State) : (applyReset s).fault = none := rfl
@[simp] theorem applyReset_delivered (s : State) : (applyReset s).delivered = s.delivered := rfl
@[simp] theorem applyReset_overruns (s : State) : (applyReset s).overruns = s.overruns := rfl
@[simp] theorem applyReset_started (s : State) : (applyReset s).started = true := rfl
@[simp] theorem applyReset_pending (s : State) : (applyReset s).pending = s.pending := rfl
@[simp] theorem applyReset_draws (s : State) : (applyReset s).draws = s.draws := rfl

/-! ### `emitDeliver`: Deliver -/

@[simp] theorem emitDeliver_cfg (d : Delivery) (s : State) : (emitDeliver d s).cfg = s.cfg := rfl
@[simp] theorem emitDeliver_fifo (d : Delivery) (s : State) : (emitDeliver d s).fifo = s.fifo := rfl
@[simp] theorem emitDeliver_head (d : Delivery) (s : State) : (emitDeliver d s).head = s.head := rfl
@[simp] theorem emitDeliver_tail (d : Delivery) (s : State) : (emitDeliver d s).tail = s.tail := rfl
@[simp] theorem emitDeliver_empty (d : Delivery) (s : State) : (emitDeliver d s).empty = s.empty := rfl
@[simp] theorem emitDeliver_txActive (d : Delivery) (s : State) : (emitDeliver d s).txActive = s.txActive := rfl
@[simp] theorem emitDeliver_txFrame (d : Delivery) (s : State) : (emitDeliver d s).txFrame = s.txFrame := rfl
@[simp] theorem emitDeliver_txPos (d : Delivery) (s : State) : (emitDeliver d s).txPos = s.txPos := rfl
@[simp] theorem emitDeliver_txOut (d : Delivery) (s : State) : (emitDeliver d s).txOut = s.txOut := rfl
@[simp] theorem emitDeliver_rxActive (d : Delivery) (s : State) : (emitDeliver d s).rxActive = s.rxActive := rfl
@[simp] theorem emitDeliver_rxFrame (d : Delivery) (s : State) : (emitDeliver d s).rxFrame = s.rxFrame := rfl
@[simp] theorem emitDeliver_rxPos (d : Delivery) (s : State) : (emitDeliver d s).rxPos = s.rxPos := rfl
@[simp] theorem emitDeliver_rxData (d : Delivery) (s : State) : (emitDeliver d s).rxData = s.rxData := rfl
@[simp] theorem emitDeliver_rxStatus (d : Delivery) (s : State) : (emitDeliver d s).rxStatus = s.rxStatus := rfl
@[simp] theorem emitDeliver_dcd (d : Delivery) (s : State) : (emitDeliver d s).dcd = s.dcd := rfl
@[simp] theorem emitDeliver_dsr (d : Delivery) (s : State) : (emitDeliver d s).dsr = s.dsr := rfl
@[simp] theorem emitDeliver_cts (d : Delivery) (s : State) : (emitDeliver d s).cts = s.cts := rfl
@[simp] theorem emitDeliver_fault (d : Delivery) (s : State) : (emitDeliver d s).fault = s.fault := rfl
@[simp] theorem emitDeliver_delivered (d : Delivery) (s : State) : (emitDeliver d s).delivered = s.delivered ++ [d] := rfl
@[simp] theorem emitDeliver_overruns (d : Delivery) (s : State) : (emitDeliver d s).overruns = s.overruns := rfl
@[simp] theorem emitDeliver_started (d : Delivery) (s : State) : (emitDeliver d s).started = s.started := rfl
@[simp] theorem emitDeliver_pending (d : Delivery) (s : State) : (emitDeliver d s).pending = s.pending := rfl
@[simp] theorem emitDeliver_draws (d : Delivery) (s : State) : (emitDeliver d s).draws = s.draws := rfl

/-! ### `emitOverrun`: OverrunDiag -/

@[simp] theorem emitOverrun_cfg (b : Byte) (s : State) : (emitOverrun b s).cfg = s.cfg := rfl
@[simp] theorem emitOverrun_fifo (b : Byte) (s : State) : (emitOverrun b s).fifo = s.fifo := rfl
@[simp] theorem emitOverrun_head (b : Byte) (s : State) : (emitOverrun b s).head = s.head := rfl
@[simp] theorem emitOverrun_tail (b : Byte) (s : State) : (emitOverrun b s).tail = s.tail := rfl
@[simp] theorem emitOverrun_empty (b : Byte) (s : State) : (emitOverrun b s).empty = s.empty := rfl
@[simp] theorem emitOverrun_txActive (b : Byte) (s : State) : (emitOverrun b s).txActive = s.txActive := rfl
@[simp] theorem emitOverrun_txFrame (b : Byte) (s : State) : (emitOverrun b s).txFrame = s.txFrame := rfl
@[simp] theorem emitOverrun_txPos (b : Byte) (s : State) : (emitOverrun b s).txPos = s.txPos := rfl
@[simp] theorem emitOverrun_txOut (b : Byte) (s : State) : (emitOverrun b s).txOut = s.txOut := rfl
@[simp] theorem emitOverrun_rxActive (b : Byte) (s : State) : (emitOverrun b s).rxActive = s.rxActive := rfl
@[simp] theorem emitOverrun_rxFrame (b : Byte) (s : State) : (emitOverrun b s).rxFrame = s.rxFrame := rfl
@[simp] theorem emitOverrun_rxPos (b : Byte) (s : State) : (emitOverrun b s).rxPos = s.rxPos := rfl
@[simp] theorem emitOverrun_rxData (b : Byte) (s : State) : (emitOverrun b s).rxData = s.rxData := rfl
@[simp] theorem emitOverrun_rxStatus (b : Byte) (s : State) : (emitOverrun b s).rxStatus = s.rxStatus := rfl
@[simp] theorem emitOverrun_dcd (b : Byte) (s : State) : (emitOverrun b s).dcd = s.dcd := rfl
@[simp] theorem emitOverrun_dsr (b : Byte) (s : State) : (emitOverrun b s).dsr = s.dsr := rfl
@[simp] theorem emitOverrun_cts (b : Byte) (s : State) : (emitOverrun b s).cts = s.cts := rfl
@[simp] theorem emitOverrun_fault (b : Byte) (s : State) : (emitOverrun b s).fault = s.fault := rfl
@[simp] theorem emitOverrun_delivered (b : Byte) (s : State) : (emitOverrun b s).delivered = s.delivered := rfl
@[simp] theorem emitOverrun_overruns (b : Byte) (s : State) : (emitOverrun b s).overruns = s.overruns ++ [b] := rfl
@[simp] theorem emitOverrun_started (b : Byte) (s : State) : (emitOverrun b s).started = s.started := rfl
@[simp] theorem emitOverrun_pending (b : Byte) (s : State) : (emitOverrun b s).pending = s.pending := rfl
@[simp] theorem emitOverrun_draws (b : Byte) (s : State) : (emitOverrun b s).draws = s.draws := rfl

/-! ### `txLoad`: TXLOAD -/

@[simp] theorem txLoad_cfg (b : Byte) (s : State) : (txLoad b s).cfg = s.cfg := rfl
@[simp] theorem txLoad_fifo (b : Byte) (s : State) : (txLoad b s).fifo = s.fifo := rfl
@[simp] theorem txLoad_head (b : Byte) (s : State) : (txLoad b s).head = s.head := rfl
@[simp] theorem txLoad_tail (b : Byte) (s : State) : (txLoad b s).tail = s.tail := rfl
@[simp] theorem txLoad_empty (b : Byte) (s : State) : (txLoad b s).empty = s.empty := rfl
@[simp] theorem txLoad_txActive (b : Byte) (s : State) : (txLoad b s).txActive = true := rfl
@[simp] theorem txLoad_txFrame (b : Byte) (s : State) : (txLoad b s).txFrame = buildFrame s.fd b := rfl
@[simp] theorem txLoad_txPos (b : Byte) (s : State) : (txLoad b s).txPos = 0 := rfl
@[simp] theorem txLoad_txOut (b : Byte) (s : State) : (txLoad b s).txOut = s.txOut := rfl
@[simp] theorem txLoad_rxActive (b : Byte) (s : State) : (txLoad b s).rxActive = s.rxActive := rfl
@[simp] theorem txLoad_rxFrame (b : Byte) (s : State) : (txLoad b s).rxFrame = s.rxFrame := rfl
@[simp] theorem txLoad_rxPos (b : Byte) (s : State) : (txLoad b s).rxPos = s.rxPos := rfl
@[simp] theorem txLoad_rxData (b : Byte) (s : State) : (txLoad b s).rxData = s.rxData := rfl
@[simp] theorem txLoad_rxStatus (b : Byte) (s : State) : (txLoad b s).rxStatus = s.rxStatus := rfl
@[simp] theorem txLoad_dcd (b : Byte) (s : State) : (txLoad b s).dcd = s.dcd := rfl
@[simp] theorem txLoad_dsr (b : Byte) (s : State) : (txLoad b s).dsr = s.dsr := rfl
@[simp] theorem txLoad_cts (b : Byte) (s : State) : (txLoad b s).cts = s.cts := rfl
@[simp] theorem txLoad_fault (b : Byte) (s : State) : (txLoad b s).fault = s.fault := rfl
@[simp] theorem txLoad_delivered (b : Byte) (s : State) : (txLoad b s).delivered = s.delivered := rfl
@[simp] theorem txLoad_overruns (b : Byte) (s : State) : (txLoad b s).overruns = s.overruns := rfl
@[simp] theorem txLoad_started (b : Byte) (s : State) : (txLoad b s).started = s.started := rfl
@[simp] theorem txLoad_pending (b : Byte) (s : State) : (txLoad b s).pending = s.pending := rfl
@[simp] theorem txLoad_draws (b : Byte) (s : State) : (txLoad b s).draws = s.draws := rfl

/-! ### `dequeue`: the dequeue of TXDONE -/

@[simp] theorem dequeue_cfg (s : State) : (dequeue s).cfg = s.cfg := rfl
@[simp] theorem dequeue_fifo (s : State) : (dequeue s).fifo = s.fifo := rfl
@[simp] theorem dequeue_head (s : State) : (dequeue s).head = nextIndex s.head := rfl
@[simp] theorem dequeue_tail (s : State) : (dequeue s).tail = s.tail := rfl
@[simp] theorem dequeue_empty (s : State) : (dequeue s).empty = (nextIndex s.head == s.tail) := rfl
@[simp] theorem dequeue_txActive (s : State) : (dequeue s).txActive = s.txActive := rfl
@[simp] theorem dequeue_txFrame (s : State) : (dequeue s).txFrame = s.txFrame := rfl
@[simp] theorem dequeue_txPos (s : State) : (dequeue s).txPos = s.txPos := rfl
@[simp] theorem dequeue_txOut (s : State) : (dequeue s).txOut = s.txOut := rfl
@[simp] theorem dequeue_rxActive (s : State) : (dequeue s).rxActive = s.rxActive := rfl
@[simp] theorem dequeue_rxFrame (s : State) : (dequeue s).rxFrame = s.rxFrame := rfl
@[simp] theorem dequeue_rxPos (s : State) : (dequeue s).rxPos = s.rxPos := rfl
@[simp] theorem dequeue_rxData (s : State) : (dequeue s).rxData = s.rxData := rfl
@[simp] theorem dequeue_rxStatus (s : State) : (dequeue s).rxStatus = s.rxStatus := rfl
@[simp] theorem dequeue_dcd (s : State) : (dequeue s).dcd = s.dcd := rfl
@[simp] theorem dequeue_dsr (s : State) : (dequeue s).dsr = s.dsr := rfl
@[simp] theorem dequeue_cts (s : State) : (dequeue s).cts = s.cts := rfl
@[simp] theorem dequeue_fault (s : State) : (dequeue s).fault = s.fault := rfl
@[simp] theorem dequeue_delivered (s : State) : (dequeue s).delivered = s.delivered := rfl
@[simp] theorem dequeue_overruns (s : State) : (dequeue s).overruns = s.overruns := rfl
@[simp] theorem dequeue_started (s : State) : (dequeue s).started = s.started := rfl
@[simp] theorem dequeue_pending (s : State) : (dequeue s).pending = s.pending := rfl
@[simp] theorem dequeue_draws (s : State) : (dequeue s).draws = s.draws := rfl

/-! ### `append`: the append branch of ENQ -/

@[simp] theorem append_cfg (b : Byte) (s : State) : (append b s).cfg = s.cfg := rfl
@[simp] theorem append_fifo (b : Byte) (s : State) : (append b s).fifo = memWrite s.fifo s.tail b := rfl
@[simp] theorem append_head (b : Byte) (s : State) : (append b s).head = s.head := rfl
@[simp] theorem append_tail (b : Byte) (s : State) : (append b s).tail = nextIndex s.tail := rfl
@[simp] theorem append_empty (b : Byte) (s : State) : (append b s).empty = false := rfl
@[simp] theorem append_txActive (b : Byte) (s : State) : (append b s).txActive = s.txActive := rfl
@[simp] theorem append_txFrame (b : Byte) (s : State) : (append b s).txFrame = s.txFrame := rfl
@[simp] theorem append_txPos (b : Byte) (s : State) : (append b s).txPos = s.txPos := rfl
@[simp] theorem append_txOut (b : Byte) (s : State) : (append b s).txOut = s.txOut := rfl
@[simp] theorem append_rxActive (b : Byte) (s : State) : (append b s).rxActive = s.rxActive := rfl
@[simp] theorem append_rxFrame (b : Byte) (s : State) : (append b s).rxFrame = s.rxFrame := rfl
@[simp] theorem append_rxPos (b : Byte) (s : State) : (append b s).rxPos = s.rxPos := rfl
@[simp] theorem append_rxData (b : Byte) (s : State) : (append b s).rxData = s.rxData := rfl
@[simp] theorem append_rxStatus (b : Byte) (s : State) : (append b s).rxStatus = s.rxStatus := rfl
@[simp] theorem append_dcd (b : Byte) (s : State) : (append b s).dcd = s.dcd := rfl
@[simp] theorem append_dsr (b : Byte) (s : State) : (append b s).dsr = s.dsr := rfl
@[simp] theorem append_cts (b : Byte) (s : State) : (append b s).cts = s.cts := rfl
@[simp] theorem append_fault (b : Byte) (s : State) : (append b s).fault = s.fault := rfl
@[simp] theorem append_delivered (b : Byte) (s : State) : (append b s).delivered = s.delivered := rfl
@[simp] theorem append_overruns (b : Byte) (s : State) : (append b s).overruns = s.overruns := rfl
@[simp] theorem append_started (b : Byte) (s : State) : (append b s).started = s.started := rfl
@[simp] theorem append_pending (b : Byte) (s : State) : (append b s).pending = s.pending := rfl
@[simp] theorem append_draws (b : Byte) (s : State) : (append b s).draws = s.draws := rfl

/-! ### `shiftOut`: one bit onto the line -/

@[simp] theorem shiftOut_cfg (s : State) : (shiftOut s).cfg = s.cfg := rfl
@[simp] theorem shiftOut_fifo (s : State) : (shiftOut s).fifo = s.fifo := rfl
@[simp] theorem shiftOut_head (s : State) : (shiftOut s).head = s.head := rfl
@[simp] theorem shiftOut_tail (s : State) : (shiftOut s).tail = s.tail := rfl
@[simp] theorem shiftOut_empty (s : State) : (shiftOut s).empty = s.empty := rfl
@[simp] theorem shiftOut_txActive (s : State) : (shiftOut s).txActive = s.txActive := rfl
@[simp] theorem shiftOut_txFrame (s : State) : (shiftOut s).txFrame = s.txFrame := rfl
@[simp] theorem shiftOut_txPos (s : State) : (shiftOut s).txPos = nextPosition s.draws s.txPos := rfl
@[simp] theorem shiftOut_txOut (s : State) : (shiftOut s).txOut = levelAt s.draws s.txFrame s.txPos := rfl
@[simp] theorem shiftOut_rxActive (s : State) : (shiftOut s).rxActive = s.rxActive := rfl
@[simp] theorem shiftOut_rxFrame (s : State) : (shiftOut s).rxFrame = s.rxFrame := rfl
@[simp] theorem shiftOut_rxPos (s : State) : (shiftOut s).rxPos = s.rxPos := rfl
@[simp] theorem shiftOut_rxData (s : State) : (shiftOut s).rxData = s.rxData := rfl
@[simp] theorem shiftOut_rxStatus (s : State) : (shiftOut s).rxStatus = s.rxStatus := rfl
@[simp] theorem shiftOut_dcd (s : State) : (shiftOut s).dcd = s.dcd := rfl
@[simp] theorem shiftOut_dsr (s : State) : (shiftOut s).dsr = s.dsr := rfl
@[simp] theorem shiftOut_cts (s : State) : (shiftOut s).cts = s.cts := rfl
@[simp] theorem shiftOut_fault (s : State) : (shiftOut s).fault = s.fault := rfl
@[simp] theorem shiftOut_delivered (s : State) : (shiftOut s).delivered = s.delivered := rfl
@[simp] theorem shiftOut_overruns (s : State) : (shiftOut s).overruns = s.overruns := rfl
@[simp] theorem shiftOut_started (s : State) : (shiftOut s).started = s.started := rfl
@[simp] theorem shiftOut_pending (s : State) : (shiftOut s).pending = s.pending := rfl
@[simp] theorem shiftOut_draws (s : State) : (shiftOut s).draws = s.draws := rfl

/-! ### `startFrame`: start detection -/

@[simp] theorem startFrame_cfg (s : State) : (startFrame s).cfg = s.cfg := rfl
@[simp] theorem startFrame_fifo (s : State) : (startFrame s).fifo = s.fifo := rfl
@[simp] theorem startFrame_head (s : State) : (startFrame s).head = s.head := rfl
@[simp] theorem startFrame_tail (s : State) : (startFrame s).tail = s.tail := rfl
@[simp] theorem startFrame_empty (s : State) : (startFrame s).empty = s.empty := rfl
@[simp] theorem startFrame_txActive (s : State) : (startFrame s).txActive = s.txActive := rfl
@[simp] theorem startFrame_txFrame (s : State) : (startFrame s).txFrame = s.txFrame := rfl
@[simp] theorem startFrame_txPos (s : State) : (startFrame s).txPos = s.txPos := rfl
@[simp] theorem startFrame_txOut (s : State) : (startFrame s).txOut = s.txOut := rfl
@[simp] theorem startFrame_rxActive (s : State) : (startFrame s).rxActive = true := rfl
@[simp] theorem startFrame_rxFrame (s : State) : (startFrame s).rxFrame = 0xFFE#12 := rfl
@[simp] theorem startFrame_rxPos (s : State) : (startFrame s).rxPos = 1 := rfl
@[simp] theorem startFrame_rxData (s : State) : (startFrame s).rxData = s.rxData := rfl
@[simp] theorem startFrame_rxStatus (s : State) : (startFrame s).rxStatus = s.rxStatus := rfl
@[simp] theorem startFrame_dcd (s : State) : (startFrame s).dcd = s.dcd := rfl
@[simp] theorem startFrame_dsr (s : State) : (startFrame s).dsr = s.dsr := rfl
@[simp] theorem startFrame_cts (s : State) : (startFrame s).cts = s.cts := rfl
@[simp] theorem startFrame_fault (s : State) : (startFrame s).fault = s.fault := rfl
@[simp] theorem startFrame_delivered (s : State) : (startFrame s).delivered = s.delivered := rfl
@[simp] theorem startFrame_overruns (s : State) : (startFrame s).overruns = s.overruns := rfl
@[simp] theorem startFrame_started (s : State) : (startFrame s).started = s.started := rfl
@[simp] theorem startFrame_pending (s : State) : (startFrame s).pending = s.pending := rfl
@[simp] theorem startFrame_draws (s : State) : (startFrame s).draws = s.draws := rfl

/-! ### `shiftIn`: one sample -/

@[simp] theorem shiftIn_cfg (v : Level) (s : State) : (shiftIn v s).cfg = s.cfg := rfl
@[simp] theorem shiftIn_fifo (v : Level) (s : State) : (shiftIn v s).fifo = s.fifo := rfl
@[simp] theorem shiftIn_head (v : Level) (s : State) : (shiftIn v s).head = s.head := rfl
@[simp] theorem shiftIn_tail (v : Level) (s : State) : (shiftIn v s).tail = s.tail := rfl
@[simp] theorem shiftIn_empty (v : Level) (s : State) : (shiftIn v s).empty = s.empty := rfl
@[simp] theorem shiftIn_txActive (v : Level) (s : State) : (shiftIn v s).txActive = s.txActive := rfl
@[simp] theorem shiftIn_txFrame (v : Level) (s : State) : (shiftIn v s).txFrame = s.txFrame := rfl
@[simp] theorem shiftIn_txPos (v : Level) (s : State) : (shiftIn v s).txPos = s.txPos := rfl
@[simp] theorem shiftIn_txOut (v : Level) (s : State) : (shiftIn v s).txOut = s.txOut := rfl
@[simp] theorem shiftIn_rxActive (v : Level) (s : State) : (shiftIn v s).rxActive = s.rxActive := rfl
@[simp] theorem shiftIn_rxFrame (v : Level) (s : State) : (shiftIn v s).rxFrame = sampleAt s.draws s.rxFrame s.rxPos v := rfl
@[simp] theorem shiftIn_rxPos (v : Level) (s : State) : (shiftIn v s).rxPos = nextPosition s.draws s.rxPos := rfl
@[simp] theorem shiftIn_rxData (v : Level) (s : State) : (shiftIn v s).rxData = s.rxData := rfl
@[simp] theorem shiftIn_rxStatus (v : Level) (s : State) : (shiftIn v s).rxStatus = s.rxStatus := rfl
@[simp] theorem shiftIn_dcd (v : Level) (s : State) : (shiftIn v s).dcd = s.dcd := rfl
@[simp] theorem shiftIn_dsr (v : Level) (s : State) : (shiftIn v s).dsr = s.dsr := rfl
@[simp] theorem shiftIn_cts (v : Level) (s : State) : (shiftIn v s).cts = s.cts := rfl
@[simp] theorem shiftIn_fault (v : Level) (s : State) : (shiftIn v s).fault = s.fault := rfl
@[simp] theorem shiftIn_delivered (v : Level) (s : State) : (shiftIn v s).delivered = s.delivered := rfl
@[simp] theorem shiftIn_overruns (v : Level) (s : State) : (shiftIn v s).overruns = s.overruns := rfl
@[simp] theorem shiftIn_started (v : Level) (s : State) : (shiftIn v s).started = s.started := rfl
@[simp] theorem shiftIn_pending (v : Level) (s : State) : (shiftIn v s).pending = s.pending := rfl
@[simp] theorem shiftIn_draws (v : Level) (s : State) : (shiftIn v s).draws = s.draws := rfl

/-! ### `rxDone`: RXDONE -/

@[simp] theorem rxDone_cfg (s : State) : (rxDone s).cfg = s.cfg := rfl
@[simp] theorem rxDone_fifo (s : State) : (rxDone s).fifo = s.fifo := rfl
@[simp] theorem rxDone_head (s : State) : (rxDone s).head = s.head := rfl
@[simp] theorem rxDone_tail (s : State) : (rxDone s).tail = s.tail := rfl
@[simp] theorem rxDone_empty (s : State) : (rxDone s).empty = s.empty := rfl
@[simp] theorem rxDone_txActive (s : State) : (rxDone s).txActive = s.txActive := rfl
@[simp] theorem rxDone_txFrame (s : State) : (rxDone s).txFrame = s.txFrame := rfl
@[simp] theorem rxDone_txPos (s : State) : (rxDone s).txPos = s.txPos := rfl
@[simp] theorem rxDone_txOut (s : State) : (rxDone s).txOut = s.txOut := rfl
@[simp] theorem rxDone_rxActive (s : State) : (rxDone s).rxActive = false := rfl
@[simp] theorem rxDone_rxFrame (s : State) : (rxDone s).rxFrame = s.rxFrame := rfl
@[simp] theorem rxDone_rxPos (s : State) : (rxDone s).rxPos = 0 := rfl
@[simp] theorem rxDone_rxData (s : State) : (rxDone s).rxData = frameData s.fd s.rxFrame := rfl
@[simp] theorem rxDone_rxStatus (s : State) : (rxDone s).rxStatus = frameStatus s.fd s.rxFrame := rfl
@[simp] theorem rxDone_dcd (s : State) : (rxDone s).dcd = s.dcd := rfl
@[simp] theorem rxDone_dsr (s : State) : (rxDone s).dsr = s.dsr := rfl
@[simp] theorem rxDone_cts (s : State) : (rxDone s).cts = s.cts := rfl
@[simp] theorem rxDone_fault (s : State) : (rxDone s).fault = s.fault := rfl
@[simp] theorem rxDone_delivered (s : State) : (rxDone s).delivered = s.delivered ++ [extractFrame s.fd s.rxFrame] := rfl
@[simp] theorem rxDone_overruns (s : State) : (rxDone s).overruns = s.overruns := rfl
@[simp] theorem rxDone_started (s : State) : (rxDone s).started = s.started := rfl
@[simp] theorem rxDone_pending (s : State) : (rxDone s).pending = s.pending := rfl
@[simp] theorem rxDone_draws (s : State) : (rxDone s).draws = s.draws := rfl

/-! ### `restoreState`: a restore -/

@[simp] theorem restoreState_cfg (c : Checkpoint) (o : Omitted) (s : State) : (restoreState c o s).cfg = o.cfg := rfl
@[simp] theorem restoreState_fifo (c : Checkpoint) (o : Omitted) (s : State) : (restoreState c o s).fifo = memoryOf c.fifo := rfl
@[simp] theorem restoreState_head (c : Checkpoint) (o : Omitted) (s : State) : (restoreState c o s).head = c.head := rfl
@[simp] theorem restoreState_tail (c : Checkpoint) (o : Omitted) (s : State) : (restoreState c o s).tail = c.tail := rfl
@[simp] theorem restoreState_empty (c : Checkpoint) (o : Omitted) (s : State) : (restoreState c o s).empty = c.empty := rfl
@[simp] theorem restoreState_txActive (c : Checkpoint) (o : Omitted) (s : State) : (restoreState c o s).txActive = c.txActive := rfl
@[simp] theorem restoreState_txFrame (c : Checkpoint) (o : Omitted) (s : State) : (restoreState c o s).txFrame = c.txFrame := rfl
@[simp] theorem restoreState_txPos (c : Checkpoint) (o : Omitted) (s : State) : (restoreState c o s).txPos = c.txPos := rfl
@[simp] theorem restoreState_txOut (c : Checkpoint) (o : Omitted) (s : State) : (restoreState c o s).txOut = o.txOut := rfl
@[simp] theorem restoreState_rxActive (c : Checkpoint) (o : Omitted) (s : State) : (restoreState c o s).rxActive = c.rxActive := rfl
@[simp] theorem restoreState_rxFrame (c : Checkpoint) (o : Omitted) (s : State) : (restoreState c o s).rxFrame = c.rxFrame := rfl
@[simp] theorem restoreState_rxPos (c : Checkpoint) (o : Omitted) (s : State) : (restoreState c o s).rxPos = c.rxPos := rfl
@[simp] theorem restoreState_rxData (c : Checkpoint) (o : Omitted) (s : State) : (restoreState c o s).rxData = o.rxData := rfl
@[simp] theorem restoreState_rxStatus (c : Checkpoint) (o : Omitted) (s : State) : (restoreState c o s).rxStatus = o.rxStatus := rfl
@[simp] theorem restoreState_dcd (c : Checkpoint) (o : Omitted) (s : State) : (restoreState c o s).dcd = o.dcd := rfl
@[simp] theorem restoreState_dsr (c : Checkpoint) (o : Omitted) (s : State) : (restoreState c o s).dsr = o.dsr := rfl
@[simp] theorem restoreState_cts (c : Checkpoint) (o : Omitted) (s : State) : (restoreState c o s).cts = o.cts := rfl
@[simp] theorem restoreState_fault (c : Checkpoint) (o : Omitted) (s : State) : (restoreState c o s).fault = o.fault := rfl
@[simp] theorem restoreState_delivered (c : Checkpoint) (o : Omitted) (s : State) : (restoreState c o s).delivered = s.delivered := rfl
@[simp] theorem restoreState_overruns (c : Checkpoint) (o : Omitted) (s : State) : (restoreState c o s).overruns = s.overruns := rfl
@[simp] theorem restoreState_started (c : Checkpoint) (o : Omitted) (s : State) : (restoreState c o s).started = s.started := rfl
@[simp] theorem restoreState_pending (c : Checkpoint) (o : Omitted) (s : State) : (restoreState c o s).pending = s.pending := rfl
@[simp] theorem restoreState_draws (c : Checkpoint) (o : Omitted) (s : State) : (restoreState c o s).draws = s.draws := rfl

/-! ### `present`: an input presented -/

@[simp] theorem present_cfg (x : Input) (s : State) : (present x s).cfg = s.cfg := rfl
@[simp] theorem present_fifo (x : Input) (s : State) : (present x s).fifo = s.fifo := rfl
@[simp] theorem present_head (x : Input) (s : State) : (present x s).head = s.head := rfl
@[simp] theorem present_tail (x : Input) (s : State) : (present x s).tail = s.tail := rfl
@[simp] theorem present_empty (x : Input) (s : State) : (present x s).empty = s.empty := rfl
@[simp] theorem present_txActive (x : Input) (s : State) : (present x s).txActive = s.txActive := rfl
@[simp] theorem present_txFrame (x : Input) (s : State) : (present x s).txFrame = s.txFrame := rfl
@[simp] theorem present_txPos (x : Input) (s : State) : (present x s).txPos = s.txPos := rfl
@[simp] theorem present_txOut (x : Input) (s : State) : (present x s).txOut = s.txOut := rfl
@[simp] theorem present_rxActive (x : Input) (s : State) : (present x s).rxActive = s.rxActive := rfl
@[simp] theorem present_rxFrame (x : Input) (s : State) : (present x s).rxFrame = s.rxFrame := rfl
@[simp] theorem present_rxPos (x : Input) (s : State) : (present x s).rxPos = s.rxPos := rfl
@[simp] theorem present_rxData (x : Input) (s : State) : (present x s).rxData = s.rxData := rfl
@[simp] theorem present_rxStatus (x : Input) (s : State) : (present x s).rxStatus = s.rxStatus := rfl
@[simp] theorem present_dcd (x : Input) (s : State) : (present x s).dcd = s.dcd := rfl
@[simp] theorem present_dsr (x : Input) (s : State) : (present x s).dsr = s.dsr := rfl
@[simp] theorem present_cts (x : Input) (s : State) : (present x s).cts = s.cts := rfl
@[simp] theorem present_fault (x : Input) (s : State) : (present x s).fault = s.fault := rfl
@[simp] theorem present_delivered (x : Input) (s : State) : (present x s).delivered = s.delivered := rfl
@[simp] theorem present_overruns (x : Input) (s : State) : (present x s).overruns = s.overruns := rfl
@[simp] theorem present_started (x : Input) (s : State) : (present x s).started = s.started := rfl
@[simp] theorem present_pending (x : Input) (s : State) : (present x s).pending = x :: s.pending := rfl
@[simp] theorem present_draws (x : Input) (s : State) : (present x s).draws = s.draws := rfl

end Sys2Proof.Machine
end

