-- ==== Sys2Proof/Laws/Codec.lean ====
section
/-! SUPPORT. The rows of the command-word table against the encoder, and configuration words field by field. -/

namespace Sys2Proof

/-- The four rows are disjoint (30_encoding.md R59): no word is covered by two of them. -/
theorem rows_disjoint : rows.Pairwise fun r q => r.bits &&& q.mask ≠ q.bits &&& r.mask := by decide

theorem covers_iff (r : Row) (w : Word) : r.covers w = true ↔ w &&& r.mask = r.bits := by
  simp [Row.covers]

theorem argOf_encode_cfg (w : ConfigWord) : argOf (encode (.cfg w)) = w := by
  apply BitVec.eq_of_getLsbD_eq
  intro i hi
  have : i < 18 := by omega
  simp [argOf, encode, hi, this]

theorem byteOf_encode_enq (b : Byte) : byteOf (encode (.enq b)) = b := by
  apply BitVec.eq_of_getLsbD_eq
  intro i hi
  have hz : ∀ i < 8, (0x10000#18).getLsbD i = false := by decide
  have : i < 18 := by omega
  simp only [byteOf, encode, BitVec.getLsbD_extractLsb', BitVec.getLsbD_or, BitVec.getLsbD_setWidth, hz i hi, hi,
    Nat.zero_add, this, decide_true, Bool.true_and, Bool.false_or]

theorem levelOf_encode_rxtick (v : Level) : levelOf (encode (.rxtick v)) = v := by
  cases v <;> rfl

namespace Machine

/-- Bit `j` of a packed configuration word, by field (30_encoding.md R60). -/
theorem packConfig_getLsbD (d : BitVec 2) (p : BitVec 3) (s : BitVec 2) (t r : BitVec 4) {j : Nat} (hj : j < 16) :
    (packConfig d p s t r).getLsbD j =
      if j < 1 then false else if j < 3 then d.getLsbD (j - 1) else if j < 6 then p.getLsbD (j - 3)
      else if j < 8 then s.getLsbD (j - 6) else if j < 12 then t.getLsbD (j - 8) else r.getLsbD (j - 12) := by
  have hd : ∀ k, 2 ≤ k → d.getLsbD k = false := fun k => BitVec.getLsbD_of_ge d k
  have hp : ∀ k, 3 ≤ k → p.getLsbD k = false := fun k => BitVec.getLsbD_of_ge p k
  have hs : ∀ k, 2 ≤ k → s.getLsbD k = false := fun k => BitVec.getLsbD_of_ge s k
  have ht : ∀ k, 4 ≤ k → t.getLsbD k = false := fun k => BitVec.getLsbD_of_ge t k
  have hk : ∀ n, j - n < 16 := fun n => by omega
  simp only [packConfig, BitVec.getLsbD_or, BitVec.getLsbD_shiftLeft, BitVec.getLsbD_setWidth, hj, hk, decide_true,
    Bool.true_and]
  by_cases h1 : j < 1
  · simp [h1, show j < 3 by omega, show j < 6 by omega, show j < 8 by omega, show j < 12 by omega]
  by_cases h3 : j < 3
  · simp [h1, h3, show j < 6 by omega, show j < 8 by omega, show j < 12 by omega]
  by_cases h6 : j < 6
  · simp [h1, h3, h6, show j < 8 by omega, show j < 12 by omega, hd (j - 1) (by omega)]
  by_cases h8 : j < 8
  · simp [h1, h3, h6, h8, show j < 12 by omega, hd (j - 1) (by omega), hp (j - 3) (by omega)]
  by_cases h12 : j < 12
  · simp [h1, h3, h6, h8, h12, hd (j - 1) (by omega), hp (j - 3) (by omega), hs (j - 6) (by omega)]
  · simp [h1, h3, h6, h8, h12, hd (j - 1) (by omega), hp (j - 3) (by omega), hs (j - 6) (by omega),
      ht (j - 8) (by omega)]

/-- Each field of a packed configuration word reads back (30_encoding.md R60). -/
theorem startSel_packConfig (d : BitVec 2) (p : BitVec 3) (s : BitVec 2) (t r : BitVec 4) :
    startSel (packConfig d p s t r) = 0 := by
  apply BitVec.eq_of_getLsbD_eq
  intro i hi
  obtain rfl : i = 0 := by omega
  rw [startSel, BitVec.getLsbD_extractLsb', packConfig_getLsbD _ _ _ _ _ (by omega)]
  simp

theorem dataSel_packConfig (d : BitVec 2) (p : BitVec 3) (s : BitVec 2) (t r : BitVec 4) :
    dataSel (packConfig d p s t r) = d := by
  apply BitVec.eq_of_getLsbD_eq
  intro i hi
  rw [dataSel, BitVec.getLsbD_extractLsb', packConfig_getLsbD _ _ _ _ _ (by omega)]
  simp [hi, show ¬ 1 + i < 1 by omega, show 1 + i < 3 by omega]

theorem paritySel_packConfig (d : BitVec 2) (p : BitVec 3) (s : BitVec 2) (t r : BitVec 4) :
    paritySel (packConfig d p s t r) = p := by
  apply BitVec.eq_of_getLsbD_eq
  intro i hi
  rw [paritySel, BitVec.getLsbD_extractLsb', packConfig_getLsbD _ _ _ _ _ (by omega)]
  simp [hi, show ¬ 3 + i < 1 by omega, show ¬ 3 + i < 3 by omega, show 3 + i < 6 by omega]

theorem stopSel_packConfig (d : BitVec 2) (p : BitVec 3) (s : BitVec 2) (t r : BitVec 4) :
    stopSel (packConfig d p s t r) = s := by
  apply BitVec.eq_of_getLsbD_eq
  intro i hi
  rw [stopSel, BitVec.getLsbD_extractLsb', packConfig_getLsbD _ _ _ _ _ (by omega)]
  simp [hi, show ¬ 6 + i < 1 by omega, show ¬ 6 + i < 3 by omega, show ¬ 6 + i < 6 by omega, show 6 + i < 8 by omega]

theorem txBaudSel_packConfig (d : BitVec 2) (p : BitVec 3) (s : BitVec 2) (t r : BitVec 4) :
    txBaudSel (packConfig d p s t r) = t := by
  apply BitVec.eq_of_getLsbD_eq
  intro i hi
  rw [txBaudSel, BitVec.getLsbD_extractLsb', packConfig_getLsbD _ _ _ _ _ (by omega)]
  simp [hi, show ¬ 8 + i < 1 by omega, show ¬ 8 + i < 3 by omega, show ¬ 8 + i < 6 by omega, show ¬ 8 + i < 8 by omega,
    show 8 + i < 12 by omega]

theorem rxBaudSel_packConfig (d : BitVec 2) (p : BitVec 3) (s : BitVec 2) (t r : BitVec 4) :
    rxBaudSel (packConfig d p s t r) = r := by
  apply BitVec.eq_of_getLsbD_eq
  intro i hi
  rw [rxBaudSel, BitVec.getLsbD_extractLsb', packConfig_getLsbD _ _ _ _ _ (by omega)]
  simp [hi, show ¬ 12 + i < 1 by omega, show ¬ 12 + i < 3 by omega, show ¬ 12 + i < 6 by omega,
    show ¬ 12 + i < 8 by omega, show ¬ 12 + i < 12 by omega]

theorem startBitsOf_legal : ∀ i : BitVec 1, i.toNat = 0 → startBitsOf i = some .one := by decide

theorem parityOf_legal : ∀ i : BitVec 3, i.toNat ≤ 4 → (parityOf i).isSome = true := by decide

theorem stopBitsOf_legal : ∀ i : BitVec 2, i.toNat ≤ 2 → (stopBitsOf i).isSome = true := by decide

/-- The five conditions of `Valid` (30_encoding.md R62). -/
theorem validConfig_iff (w : ConfigWord) : validConfig w = true ↔
    (startSel w).toNat = 0 ∧ (paritySel w).toNat ≤ 4 ∧ (stopSel w).toNat ≤ 2 ∧
      (txBaudSel w).toNat ≤ 13 ∧ (rxBaudSel w).toNat ≤ 13 := by
  simp only [validConfig, Bool.and_eq_true, beq_iff_eq, decide_eq_true_eq, and_assoc]

/-- A valid word's framing fields name a descriptor, and `Decode` is that one (30_encoding.md R64). -/
theorem descriptor_of_valid {w : ConfigWord} (h : validConfig w = true) : framingOf w = some (descriptor w) := by
  obtain ⟨hs, hp, ht, -, -⟩ := (validConfig_iff w).mp h
  obtain ⟨p, hp⟩ := Option.isSome_iff_exists.mp (parityOf_legal _ hp)
  obtain ⟨t, ht⟩ := Option.isSome_iff_exists.mp (stopBitsOf_legal _ ht)
  simp [descriptor, framingOf, h, startBitsOf_legal _ hs, hp, ht]

/-- The indices 0 to 13 are in `BAUD_TABLE` (30_encoding.md R63). -/
theorem baudRate_of_legal {i : BitVec 4} (h : i.toNat ≤ 13) : baudTable[i.toNat]? = some (baudRate i) := by
  have hl : i.toNat < baudTable.length := by
    have : baudTable.length = 14 := rfl
    omega
  simp [baudRate, List.getElem?_eq_getElem hl]

end Machine

end Sys2Proof
end

