-- ==== Sys2Proof/Laws/Frame.lean ====
section
/-! SUPPORT. What each function on frames answers, bit by bit, and the bounds of frame lengths. -/

namespace Sys2Proof.Machine

/-- Bit `i` of a built frame is the level at position `i`. -/
theorem buildFrame_getLsbD (fd : FrameDescriptor) (b : Byte) {i : Nat} (h : i < 12) :
    (buildFrame fd b).getLsbD i = frameLevel fd b i := by
  simp [buildFrame, h]

/-- Bit `j` of a register after a level is stored at `i`. -/
theorem setLevel_getLsbD (f : FrameBits) (i : Nat) (v : Level) {j : Nat} (h : j < 12) :
    (setLevel f i v).getLsbD j = if j = i then v else f.getLsbD j := by
  simp [setLevel, h]

/-- Bit `i` of the data field is the frame's bit `1 + i`, and zero above the data bits. -/
theorem frameData_getLsbD (fd : FrameDescriptor) (f : FrameBits) {i : Nat} (h : i < 8) :
    (frameData fd f).getLsbD i = (decide (i < dataCount fd.dataBits) && f.getLsbD (1 + i)) := by
  simp [frameData, h]

theorem dataCount_bounds (d : DataBits) : 5 ≤ dataCount d ∧ dataCount d ≤ 8 := by
  cases d <;> decide

theorem stopTicks_bounds (s : StopBits) : 1 ≤ stopTicks s ∧ stopTicks s ≤ 2 := by
  cases s <;> decide

theorem parityTicks_bounds (p : Parity) : parityTicks p ≤ 1 := by
  cases p <;> decide

theorem startTicks_eq (s : StartBits) : startTicks s = 1 := by
  cases s; rfl

/-- Every descriptor's frame has 7 to 12 positions (30_encoding.md R68). -/
theorem frameLen_bounds (fd : FrameDescriptor) : 7 ≤ frameLen fd ∧ frameLen fd ≤ 12 := by
  have hd := dataCount_bounds fd.dataBits
  have hs := stopTicks_bounds fd.stopBits
  have hp := parityTicks_bounds fd.parity
  have h1 := startTicks_eq fd.startBits
  unfold frameLen firstStop
  omega

/-- A parity bit exists exactly where the frame has a parity position. -/
theorem parityBit_isSome (fd : FrameDescriptor) (b : Byte) :
    (parityBit fd b).isSome = decide (parityTicks fd.parity = 1) := by
  unfold parityBit
  cases fd.parity <;> rfl

/-- Only the data bits that are sent are counted (30_encoding.md R69). -/
theorem onesIn_congr {d : Nat} {b c : Byte} (h : ∀ i < d, b.getLsbD i = c.getLsbD i) : onesIn d b = onesIn d c := by
  unfold onesIn
  refine List.countP_congr fun i hi => ?_
  rw [h i (List.mem_range.mp hi)]

theorem parityBit_congr (fd : FrameDescriptor) {b c : Byte}
    (h : ∀ i < dataCount fd.dataBits, b.getLsbD i = c.getLsbD i) : parityBit fd b = parityBit fd c := by
  unfold parityBit
  rw [onesIn_congr h]

/-- Reading a status back (30_encoding.md R72). -/
theorem frameStatus_getLsbD_zero (fd : FrameDescriptor) (f : FrameBits) :
    (frameStatus fd f).getLsbD 0 = parityError fd f := by
  unfold frameStatus
  cases framingError fd f <;> cases parityError fd f <;> rfl

theorem frameStatus_getLsbD_one (fd : FrameDescriptor) (f : FrameBits) :
    (frameStatus fd f).getLsbD 1 = framingError fd f := by
  unfold frameStatus
  cases framingError fd f <;> cases parityError fd f <;> rfl

end Sys2Proof.Machine
end

