-- ==== Sys2Proof/Laws/Memory.lean ====
section
/-! SUPPORT. The laws of FIFO storage: read after write, the canonical form and that every operation keeps it, extensionality, and
the slots a checkpoint saves. -/

namespace Sys2Proof.Machine

theorem Memory.wfFrom_mono {lo lo' : Nat} (h : lo' ≤ lo) {m : Memory} (hm : Memory.wfFrom lo m = true) :
    Memory.wfFrom lo' m = true := by
  cases m with
  | nil => rfl
  | cons c m =>
    obtain ⟨k, v⟩ := c
    simp only [Memory.wfFrom, Bool.and_eq_true, decide_eq_true_eq] at hm ⊢
    exact ⟨⟨⟨by omega, hm.1.1.2⟩, hm.1.2⟩, hm.2⟩

/-- Below the first listed address a canonical memory holds nothing. -/
theorem Memory.lookup_below {a : Nat} :
    ∀ {m : Memory} {lo : Nat}, Memory.wfFrom lo m = true → a < lo → m.lookup a = Config.unlistedSlot
  | [], _, _, _ => rfl
  | (k, v) :: m, lo, hm, ha => by
    simp only [Memory.wfFrom, Bool.and_eq_true, decide_eq_true_eq] at hm
    have hk : k ≠ a := by omega
    simp only [Memory.lookup, hk, if_false]
    exact Memory.lookup_below hm.2 (by omega)

/-- A write does not show at another address. -/
theorem Memory.lookup_store_other {a x : Nat} (h : x ≠ a) (b : Byte) :
    ∀ m : Memory, (m.store a b).lookup x = m.lookup x
  | [] => by
    by_cases hb : b = Config.unlistedSlot <;> simp [Memory.store, Memory.lookup, hb, Ne.symm h]
  | (k, v) :: m => by
    have ih := Memory.lookup_store_other h b m
    by_cases h1 : a < k
    · by_cases hb : b = Config.unlistedSlot <;> simp [Memory.store, Memory.lookup, h1, hb, Ne.symm h]
    · by_cases h2 : a = k
      · subst h2
        by_cases hb : b = Config.unlistedSlot <;> simp [Memory.store, Memory.lookup, hb, Ne.symm h]
      · simp [Memory.store, Memory.lookup, h1, h2, ih]

/-- A write to a canonical memory is read back. -/
theorem Memory.lookup_store_same {a : Nat} (b : Byte) :
    ∀ {m : Memory} {lo : Nat}, Memory.wfFrom lo m = true → (m.store a b).lookup a = b
  | [], _, _ => by
    by_cases hb : b = Config.unlistedSlot <;> simp [Memory.store, Memory.lookup, hb]
  | (k, v) :: m, lo, hm => by
    simp only [Memory.wfFrom, Bool.and_eq_true, decide_eq_true_eq] at hm
    by_cases h1 : a < k
    · by_cases hb : b = Config.unlistedSlot
      · have hk : k ≠ a := by omega
        simp [Memory.store, Memory.lookup, h1, hb, hk, Memory.lookup_below hm.2 (by omega : a < k + 1)]
      · simp [Memory.store, Memory.lookup, h1, hb]
    · by_cases h2 : a = k
      · subst h2
        by_cases hb : b = Config.unlistedSlot
        · simp [Memory.store, hb, Memory.lookup_below hm.2 (by omega : a < a + 1)]
        · simp [Memory.store, Memory.lookup, hb]
      · have hk : k ≠ a := fun h => h2 h.symm
        simp only [Memory.store, h1, h2, if_false, Memory.lookup, hk]
        exact Memory.lookup_store_same b hm.2

/-- A write below `CAPACITY` keeps the canonical form. -/
theorem Memory.store_wfFrom {a : Nat} (ha : a < Config.capacity) (b : Byte) :
    ∀ {m : Memory} {lo : Nat}, Memory.wfFrom lo m = true → lo ≤ a → Memory.wfFrom lo (m.store a b) = true
  | [], lo, _, hl => by
    by_cases hb : b = Config.unlistedSlot <;> simp [Memory.store, Memory.wfFrom, hb, ha, hl]
  | (k, v) :: m, lo, hm, hl => by
    have hm' := hm
    simp only [Memory.wfFrom, Bool.and_eq_true, decide_eq_true_eq] at hm'
    by_cases h1 : a < k
    · by_cases hb : b = Config.unlistedSlot
      · simpa [Memory.store, h1, hb] using hm
      · have : a + 1 ≤ k := h1
        simp [Memory.store, Memory.wfFrom, h1, hb, ha, hl, this, hm'.1.1.2, hm'.1.2, hm'.2]
    · by_cases h2 : a = k
      · subst h2
        by_cases hb : b = Config.unlistedSlot
        · simpa [Memory.store, hb] using Memory.wfFrom_mono (by omega) hm'.2
        · simp [Memory.store, Memory.wfFrom, hb, ha, hl, hm'.2]
      · have ih := Memory.store_wfFrom ha b hm'.2 (by omega : k + 1 ≤ a)
        simp [Memory.store, Memory.wfFrom, h1, h2, hm'.1.1.1, hm'.1.1.2, bne_iff_ne.mp hm'.1.2, ih]

theorem slot_lt_capacity (i : SlotIndex) : i.toNat < Config.capacity := i.isLt

/-- Every memory operation keeps the canonical form. -/
theorem memWrite_wf {m : Memory} (hm : m.wf = true) (i : SlotIndex) (v : Byte) : (memWrite m i v).wf = true :=
  Memory.store_wfFrom (slot_lt_capacity i) v hm (Nat.zero_le _)

theorem memClear_wf : memClear.wf = true := rfl

theorem reset_memory_wf : State.reset.fifo.wf = true := rfl

@[simp] theorem memRead_memClear (i : SlotIndex) : memRead memClear i = 0x00#8 := rfl

/-- `MemWrite` then `MemRead` of the same slot (20_memory.md R41). -/
theorem memRead_memWrite_same {m : Memory} (hm : m.wf = true) (i : SlotIndex) (v : Byte) :
    memRead (memWrite m i v) i = v :=
  Memory.lookup_store_same v hm

/-- `MemWrite` "changes nothing else" (20_memory.md R41). -/
theorem memRead_memWrite_other (m : Memory) {i j : SlotIndex} (h : j ≠ i) (v : Byte) :
    memRead (memWrite m i v) j = memRead m j :=
  Memory.lookup_store_other (fun e => h (BitVec.eq_of_toNat_eq e)) v m

/-- Canonical memories that agree at every address are equal data. -/
theorem Memory.ext_of_lookup : ∀ {m m' : Memory} {lo : Nat}, Memory.wfFrom lo m = true → Memory.wfFrom lo m' = true →
    (∀ a, m.lookup a = m'.lookup a) → m = m'
  | [], [], _, _, _, _ => rfl
  | [], (k, v) :: m', lo, _, hm', h => by
    simp only [Memory.wfFrom, Bool.and_eq_true, decide_eq_true_eq, bne_iff_ne] at hm'
    exact absurd (h k) (by simp [Memory.lookup, Ne.symm hm'.1.2])
  | (k, v) :: m, [], lo, hm, _, h => by
    simp only [Memory.wfFrom, Bool.and_eq_true, decide_eq_true_eq, bne_iff_ne] at hm
    exact absurd (h k) (by simp [Memory.lookup, hm.1.2])
  | (k, v) :: m, (k', v') :: m', lo, hm, hm', h => by
    simp only [Memory.wfFrom, Bool.and_eq_true, decide_eq_true_eq, bne_iff_ne] at hm hm'
    have hk : k = k' := by
      rcases Nat.lt_trichotomy k k' with hlt | heq | hgt
      · have := h k
        have hne : k' ≠ k := by omega
        simp only [Memory.lookup, if_true, hne, if_false, Memory.lookup_below hm'.2 (by omega : k < k' + 1)] at this
        exact absurd this hm.1.2
      · exact heq
      · have := h k'
        have hne : k ≠ k' := by omega
        simp only [Memory.lookup, if_true, hne, if_false, Memory.lookup_below hm.2 (by omega : k' < k + 1)] at this
        exact absurd this.symm hm'.1.2
    subst hk
    have hv : v = v' := by simpa [Memory.lookup] using h k
    subst hv
    have ht : m = m' := by
      refine Memory.ext_of_lookup hm.2 hm'.2 fun a => ?_
      by_cases ha : k = a
      · subst ha
        rw [Memory.lookup_below hm.2 (by omega), Memory.lookup_below hm'.2 (by omega)]
      · simpa [Memory.lookup, ha] using h a
    rw [ht]

/-- At and above `CAPACITY` a canonical memory holds nothing. -/
theorem Memory.lookup_above {a : Nat} (ha : Config.capacity ≤ a) :
    ∀ {m : Memory} {lo : Nat}, Memory.wfFrom lo m = true → m.lookup a = Config.unlistedSlot
  | [], _, _ => rfl
  | (k, v) :: m, lo, hm => by
    simp only [Memory.wfFrom, Bool.and_eq_true, decide_eq_true_eq] at hm
    have hk : k ≠ a := by omega
    simp only [Memory.lookup, hk, if_false]
    exact Memory.lookup_above ha hm.2

/-- Canonical memories that agree at every slot are equal data. -/
theorem Memory.ext_of_memRead {m m' : Memory} (hm : m.wf = true) (hm' : m'.wf = true)
    (h : ∀ i, memRead m i = memRead m' i) : m = m' := by
  refine Memory.ext_of_lookup hm hm' fun a => ?_
  by_cases ha : a < Config.capacity
  · have := h (BitVec.ofNat 4 a)
    simpa [memRead, Nat.mod_eq_of_lt (show a < 16 from ha)] using this
  · rw [Memory.lookup_above (by omega) hm, Memory.lookup_above (by omega) hm']

/-- Writes of the bytes `f i` to the slots `i` of a list: the slots listed read as `f`, the others as before, and the form stays
canonical. -/
theorem foldl_memWrite_spec (f : Fin Config.capacity → Byte) :
    ∀ (l : List (Fin Config.capacity)) {m : Memory}, m.wf = true →
      (l.foldl (fun m i => memWrite m (BitVec.ofNat 4 i.val) (f i)) m).wf = true ∧
      ∀ j : Fin Config.capacity,
        memRead (l.foldl (fun m i => memWrite m (BitVec.ofNat 4 i.val) (f i)) m) (BitVec.ofNat 4 j.val) =
          if j ∈ l then f j else memRead m (BitVec.ofNat 4 j.val)
  | [], m, hm => ⟨hm, by simp⟩
  | i :: l, m, hm => by
    obtain ⟨hwf, hread⟩ := foldl_memWrite_spec f l (memWrite_wf hm (BitVec.ofNat 4 i.val) (f i))
    refine ⟨hwf, fun j => ?_⟩
    simp only [List.foldl_cons, hread j, List.mem_cons]
    by_cases hj : j ∈ l
    · simp [hj]
    · by_cases hij : j = i
      · subst hij; simp [hj, memRead_memWrite_same hm]
      · have hne : BitVec.ofNat 4 j.val ≠ BitVec.ofNat 4 i.val := by
          intro h
          have := congrArg BitVec.toNat h
          simp only [BitVec.toNat_ofNat] at this
          rw [Nat.mod_eq_of_lt (show j.val < 2 ^ 4 from j.isLt), Nat.mod_eq_of_lt (show i.val < 2 ^ 4 from i.isLt)] at this
          exact hij (Fin.ext this)
        simp [hj, hij, memRead_memWrite_other m hne]

theorem Memory.ofBytes_wfFrom : ∀ (bs : List Byte) (a : Nat), a + bs.length ≤ Config.capacity →
    Memory.wfFrom a (Memory.ofBytes a bs) = true
  | [], _, _ => rfl
  | b :: bs, a, h => by
    simp only [List.length_cons] at h
    have ih := Memory.ofBytes_wfFrom bs (a + 1) (by omega)
    by_cases hb : b = Config.unlistedSlot
    · simpa [Memory.ofBytes, hb] using Memory.wfFrom_mono (Nat.le_succ a) ih
    · simp [Memory.ofBytes, Memory.wfFrom, hb, ih, show a < Config.capacity by omega]

theorem Memory.lookup_ofBytes : ∀ (bs : List Byte) (a i : Nat) (h : i < bs.length),
    a + bs.length ≤ Config.capacity → (Memory.ofBytes a bs).lookup (a + i) = bs[i]
  | b :: bs, a, i, h, hl => by
    simp only [List.length_cons] at hl h
    cases i with
    | zero =>
      by_cases hb : b = Config.unlistedSlot
      · have hw := Memory.ofBytes_wfFrom bs (a + 1) (by omega)
        simp [Memory.ofBytes, hb, Memory.lookup_below hw (Nat.lt_succ_self a)]
      · simp [Memory.ofBytes, Memory.lookup, hb]
    | succ i =>
      have ih := Memory.lookup_ofBytes bs (a + 1) i (by omega) (by omega)
      rw [show a + 1 + i = a + (i + 1) by omega] at ih
      by_cases hb : b = Config.unlistedSlot
      · simp [Memory.ofBytes, hb, ih]
      · simp [Memory.ofBytes, Memory.lookup, hb, ih]

theorem memoryOf_wf (v : Vector Byte Config.capacity) : (memoryOf v).wf = true :=
  Memory.ofBytes_wfFrom _ 0 (by simp)

theorem memRead_memoryOf (v : Vector Byte Config.capacity) (i : Fin Config.capacity) :
    memRead (memoryOf v) (BitVec.ofNat 4 i.val) = v[i] := by
  have h := Memory.lookup_ofBytes v.toList 0 i.val (by simp) (by simp)
  have hi : i.val % 16 = i.val := Nat.mod_eq_of_lt i.isLt
  simpa [memRead, memoryOf, hi] using h

/-- Restoring slots and saving them gives the slots back. -/
theorem slotsOf_memoryOf (v : Vector Byte Config.capacity) : slotsOf (memoryOf v) = v := by
  apply Vector.ext
  intro i hi
  simpa [slotsOf] using memRead_memoryOf v ⟨i, hi⟩

/-- Saving the slots of a canonical memory and restoring them gives the memory back. -/
theorem memoryOf_slotsOf {m : Memory} (hm : m.wf = true) : memoryOf (slotsOf m) = m := by
  refine Memory.ext_of_memRead (memoryOf_wf _) hm fun i => ?_
  have := memRead_memoryOf (slotsOf m) ⟨i.toNat, i.isLt⟩
  simpa [slotsOf] using this

/-- The sixteen writes of zero that 40_configuration.md R81 lists give the cleared memory. -/
theorem clearing_writes_give_memClear {m : Memory} (hm : m.wf = true) :
    (List.finRange Config.capacity).foldl (fun m i => memWrite m (BitVec.ofNat 4 i.val) 0x00#8) m = memClear := by
  obtain ⟨hwf, hread⟩ := foldl_memWrite_spec (fun _ => 0x00#8) (List.finRange Config.capacity) hm
  refine Memory.ext_of_memRead hwf rfl fun i => ?_
  have := hread ⟨i.toNat, i.isLt⟩
  simpa using this

end Sys2Proof.Machine
end

