-- ==== Sys2Proof/Laws/Ops.lean ====
section
/-! SUPPORT. One lemma for each shared operation that says everything it can do. -/

namespace Sys2Proof.Machine

variable {s t : State}

/-! ### Running -/

theorem whenRunning_of_running (h : s.Running) (op : State → Result) : whenRunning s op = op s := by
  simp [whenRunning, h.started, h.fault]

theorem whenRunning_of_faulted {kind : Fault} (hs : s.started = true) (hf : s.fault = some kind) (op : State → Result) :
    whenRunning s op = .fault kind := by
  simp [whenRunning, hs, hf]

theorem whenRunning_before_reset (hs : s.started = false) (op : State → Result) :
    whenRunning s op = .refused .beforeReset := by
  simp [whenRunning, hs]

/-- An operation that answers a next state ran on a running engine. -/
theorem whenRunning_next {op : State → Result} (h : whenRunning s op = .next t) : s.Running ∧ op s = .next t := by
  unfold whenRunning at h
  split at h
  · next hs =>
    split at h
    · next hf => exact ⟨⟨hs, hf⟩, h⟩
    · cases h
  · cases h

/-! ### Indices and positions -/

/-- `(i + 1) mod CAPACITY` on four bits (41_transmit.md R100). -/
theorem nextIndex_eq (i : SlotIndex) : nextIndex i = i + 1 := by
  apply BitVec.eq_of_toNat_eq
  simp [nextIndex, Config.capacity, BitVec.toNat_add]

theorem nextPosition_toNat (n : Nat) {p : Position} (h : p.toNat < 15) : (nextPosition n p).toNat = p.toNat + 1 := by
  have : (p.toNat + 1) % 16 = p.toNat + 1 := Nat.mod_eq_of_lt (by omega)
  simp [nextPosition, h, BitVec.toNat_add, this]

theorem nextPosition_eq (n : Nat) {p : Position} (h : p.toNat < 15) : nextPosition n p = p + 1 := by
  simp [nextPosition, h]

theorem levelAt_eq (n : Nat) (f : FrameBits) {p : Position} (h : p.toNat < 12) : levelAt n f p = f.getLsbD p.toNat := by
  simp [levelAt, h]

theorem sampleAt_eq (n : Nat) (f : FrameBits) {p : Position} (v : Level) (h : p.toNat < 12) :
    sampleAt n f p v = setLevel f p.toNat v := by
  simp [sampleAt, h]

/-! ### Internal events -/

/-- TXDONE with an empty FIFO goes Idle; otherwise it loads the head and dequeues (41_transmit.md R98). -/
theorem txDone_of_empty (h : s.empty = true) : txDone s = { s with txActive := false, txPos := 0 } := by
  simp [txDone, h]

theorem txDone_of_queued (h : s.empty = false) :
    txDone s = { s with
      txFrame := buildFrame s.fd (memRead s.fifo s.head), txPos := 0, txActive := true
      head := nextIndex s.head, empty := nextIndex s.head == s.tail } := by
  simp [txDone, h, dequeue, txLoad]

/-- RXDONE as one update (42_receive.md R110). -/
theorem rxDone_eq (s : State) : rxDone s = { s with
    rxData := frameData s.fd s.rxFrame, rxStatus := frameStatus s.fd s.rxFrame, rxActive := false, rxPos := 0
    delivered := s.delivered ++ [extractFrame s.fd s.rxFrame] } := rfl

/-! ### The bodies of the four operations, branch by branch -/

/-- A transmit tick does one of four things. -/
theorem txTick_cases (s : State) :
    (s.txActive = false ∧ txTick s = s) ∨
    (s.txActive = true ∧ (nextPosition s.draws s.txPos).toNat ≠ frameLen s.fd ∧ txTick s = shiftOut s) ∨
    (s.txActive = true ∧ (nextPosition s.draws s.txPos).toNat = frameLen s.fd ∧ s.empty = false ∧
      txTick s = dequeue (txLoad (memRead s.fifo s.head) (shiftOut s))) ∨
    (s.txActive = true ∧ (nextPosition s.draws s.txPos).toNat = frameLen s.fd ∧ s.empty = true ∧
      txTick s = { shiftOut s with txActive := false, txPos := 0 }) := by
  unfold txTick
  cases ha : s.txActive with
  | false => exact .inl ⟨rfl, by simp⟩
  | true =>
    by_cases hl : (nextPosition s.draws s.txPos).toNat = frameLen s.fd
    · cases he : s.empty with
      | false => exact .inr (.inr (.inl ⟨rfl, hl, rfl, by simp [hl, txDone, he]⟩))
      | true => exact .inr (.inr (.inr ⟨rfl, hl, rfl, by simp [hl, txDone, he]⟩))
    · exact .inr (.inl ⟨rfl, hl, by simp [hl]⟩)

/-- One bit onto the line from a position the register has. -/
theorem shiftOut_eq (h : s.txPos.toNat < 12) :
    shiftOut s = { s with txOut := s.txFrame.getLsbD s.txPos.toNat, txPos := s.txPos + 1 } := by
  unfold shiftOut
  rw [levelAt_eq _ _ h, nextPosition_eq _ (by omega)]

theorem txTick_idle (ha : s.txActive = false) : txTick s = s := by
  simp [txTick, ha]

/-- A tick that does not complete the frame. -/
theorem txTick_mid (ha : s.txActive = true) (hp : s.txPos.toNat < 15) (hl : s.txPos.toNat + 1 ≠ frameLen s.fd) :
    txTick s = shiftOut s := by
  rcases txTick_cases s with ⟨h, -⟩ | ⟨-, -, e⟩ | ⟨-, h, -⟩ | ⟨-, h, -⟩
  · rw [ha] at h; cases h
  · exact e
  · rw [nextPosition_toNat _ hp] at h; exact absurd h hl
  · rw [nextPosition_toNat _ hp] at h; exact absurd h hl

/-- A tick that completes the frame with a byte queued. -/
theorem txTick_last_queued (ha : s.txActive = true) (hp : s.txPos.toNat < 15) (hl : s.txPos.toNat + 1 = frameLen s.fd)
    (he : s.empty = false) : txTick s = dequeue (txLoad (memRead s.fifo s.head) (shiftOut s)) := by
  rcases txTick_cases s with ⟨h, -⟩ | ⟨-, h, -⟩ | ⟨-, -, -, e⟩ | ⟨-, -, h, -⟩
  · rw [ha] at h; cases h
  · rw [nextPosition_toNat _ hp] at h; exact absurd hl h
  · exact e
  · rw [he] at h; cases h

/-- A tick that completes the frame with nothing queued. -/
theorem txTick_last_empty (ha : s.txActive = true) (hp : s.txPos.toNat < 15) (hl : s.txPos.toNat + 1 = frameLen s.fd)
    (he : s.empty = true) : txTick s = { shiftOut s with txActive := false, txPos := 0 } := by
  rcases txTick_cases s with ⟨h, -⟩ | ⟨-, h, -⟩ | ⟨-, -, h, -⟩ | ⟨-, -, -, e⟩
  · rw [ha] at h; cases h
  · rw [nextPosition_toNat _ hp] at h; exact absurd hl h
  · rw [he] at h; cases h
  · exact e

/-- A receive tick does one of four things. -/
theorem rxTick_cases (v : Level) (s : State) :
    (s.rxActive = false ∧ v = mark ∧ rxTick v s = s) ∨
    (s.rxActive = false ∧ v = space ∧ rxTick v s = startFrame s) ∨
    (s.rxActive = true ∧ (nextPosition s.draws s.rxPos).toNat ≠ frameLen s.fd ∧ rxTick v s = shiftIn v s) ∨
    (s.rxActive = true ∧ (nextPosition s.draws s.rxPos).toNat = frameLen s.fd ∧ rxTick v s = rxDone (shiftIn v s)) := by
  unfold rxTick
  cases ha : s.rxActive with
  | false =>
    cases v with
    | true => exact .inl ⟨rfl, rfl, by simp⟩
    | false => exact .inr (.inl ⟨rfl, rfl, by simp⟩)
  | true =>
    by_cases hl : (nextPosition s.draws s.rxPos).toNat = frameLen s.fd
    · exact .inr (.inr (.inr ⟨rfl, hl, by simp [hl]⟩))
    · exact .inr (.inr (.inl ⟨rfl, hl, by simp [hl]⟩))

/-- One sample stored at a position the register has. -/
theorem shiftIn_eq (v : Level) (h : s.rxPos.toNat < 12) :
    shiftIn v s = { s with rxFrame := setLevel s.rxFrame s.rxPos.toNat v, rxPos := s.rxPos + 1 } := by
  unfold shiftIn
  rw [sampleAt_eq _ _ _ h, nextPosition_eq _ (by omega)]

theorem rxTick_idle (ha : s.rxActive = false) : rxTick mark s = s := by
  simp [rxTick, ha]

theorem rxTick_start (ha : s.rxActive = false) : rxTick space s = startFrame s := by
  simp [rxTick, ha]

/-- A sample that does not complete the frame. -/
theorem rxTick_mid (v : Level) (ha : s.rxActive = true) (hp : s.rxPos.toNat < 15)
    (hl : s.rxPos.toNat + 1 ≠ frameLen s.fd) : rxTick v s = shiftIn v s := by
  rcases rxTick_cases v s with ⟨h, -⟩ | ⟨h, -⟩ | ⟨-, -, e⟩ | ⟨-, h, -⟩
  · rw [ha] at h; cases h
  · rw [ha] at h; cases h
  · exact e
  · rw [nextPosition_toNat _ hp] at h; exact absurd h hl

/-- A sample that completes the frame. -/
theorem rxTick_last (v : Level) (ha : s.rxActive = true) (hp : s.rxPos.toNat < 15)
    (hl : s.rxPos.toNat + 1 = frameLen s.fd) : rxTick v s = rxDone (shiftIn v s) := by
  rcases rxTick_cases v s with ⟨h, -⟩ | ⟨h, -⟩ | ⟨-, h, -⟩ | ⟨-, -, e⟩
  · rw [ha] at h; cases h
  · rw [ha] at h; cases h
  · rw [nextPosition_toNat _ hp] at h; exact absurd hl h
  · exact e

/-- ENQ takes exactly one of three branches (41_transmit.md R91). -/
theorem enqueue_cases (b : Byte) (s : State) :
    (s.empty = true ∧ s.txActive = false ∧ enqueue b s = txLoad b s) ∨
    (¬ (s.empty = true ∧ s.txActive = false) ∧ (s.empty = true ∨ s.head ≠ s.tail) ∧ enqueue b s = append b s) ∨
    (s.empty = false ∧ s.head = s.tail ∧ enqueue b s = emitOverrun b s) := by
  cases he : s.empty <;> cases ha : s.txActive <;> by_cases ht : s.head = s.tail <;>
    simp [enqueue, enqBypasses, enqAppends, he, ha, ht]

/-- What ENQ asserts (41_transmit.md R92): on four bits only the flag can be wrong. -/
theorem enqPrecondition_iff (s : State) : enqPrecondition s = true ↔ (s.empty = true → s.head = s.tail) := by
  have h1 := slot_lt_capacity s.head
  have h2 := slot_lt_capacity s.tail
  cases he : s.empty <;> simp [enqPrecondition, he, h1, h2]

end Sys2Proof.Machine
end

