-- ==== Sys2Proof/Laws/Exec.lean ====
section
/-! SUPPORT. What `exec` answers: on a running engine, on a faulted one, before the first RESET; and what follows from a next
state. -/

namespace Sys2Proof.Machine

variable {s t : State}

theorem exec_cfg_valid (h : s.Running) {w : ConfigWord} (hw : validConfig w = true) :
    exec (.cfg w) s = .next (configure w s) := by
  simp [exec, execCfg, whenRunning_of_running h, hw]

theorem exec_cfg_invalid (h : s.Running) {w : ConfigWord} (hw : validConfig w = false) :
    exec (.cfg w) s = .next { s with fault := some .invalidSelection } := by
  simp [exec, execCfg, whenRunning_of_running h, hw, raiseFault]

theorem exec_enq (h : s.Running) (b : Byte) (hp : s.empty = true → s.head = s.tail) :
    exec (.enq b) s = .next (enqueue b s) := by
  simp [exec, execEnq, whenRunning_of_running h, (enqPrecondition_iff s).mpr hp]

theorem exec_enq_broken (h : s.Running) (b : Byte) (he : s.empty = true) (hp : s.head ≠ s.tail) :
    exec (.enq b) s = .next { s with fault := some .fifoInvariant } := by
  have : enqPrecondition s = false := by
    rw [Bool.eq_false_iff]
    exact fun hq => hp ((enqPrecondition_iff s).mp hq he)
  simp [exec, execEnq, whenRunning_of_running h, this, raiseFault]

theorem exec_txtick (h : s.Running) : exec .txtick s = .next (txTick s) := by
  simp [exec, execTxtick, whenRunning_of_running h]

theorem exec_rxtick (h : s.Running) (v : Level) : exec (.rxtick v) s = .next (rxTick v s) := by
  simp [exec, execRxtick, whenRunning_of_running h]

theorem exec_faulted (hs : s.started = true) {kind : Fault} (hf : s.fault = some kind) (i : Instr) :
    exec i s = .fault kind := by
  cases i <;> (unfold exec; exact whenRunning_of_faulted hs hf _)

theorem exec_before_reset (hs : s.started = false) (i : Instr) : exec i s = .refused .beforeReset := by
  cases i <;> (unfold exec; exact whenRunning_before_reset hs _)

/-- An operation that answers a next state ran on a running engine. -/
theorem running_of_exec_next {i : Instr} (h : exec i s = .next t) : s.Running := by
  cases i <;> (unfold exec at h; exact (whenRunning_next h).1)

/-- An operation that answers a next state ran on a running engine, and the next state is one of these. -/
theorem exec_next {i : Instr} (h : exec i s = .next t) :
    s.Running ∧
    ((∃ w, i = .cfg w ∧ validConfig w = true ∧ t = configure w s) ∨
     (∃ w, i = .cfg w ∧ validConfig w = false ∧ t = { s with fault := some .invalidSelection }) ∨
     (∃ b, i = .enq b ∧ (s.empty = true → s.head = s.tail) ∧ t = enqueue b s) ∨
     (∃ b, i = .enq b ∧ s.empty = true ∧ s.head ≠ s.tail ∧ t = { s with fault := some .fifoInvariant }) ∨
     (i = .txtick ∧ t = txTick s) ∨
     (∃ v, i = .rxtick v ∧ t = rxTick v s)) := by
  have next_inj {a b : State} (e : (Host.Outcome.next a : Result) = .next b) : b = a := by cases e; rfl
  have hr := running_of_exec_next h
  refine ⟨hr, ?_⟩
  cases i with
  | cfg w =>
    cases hw : validConfig w with
    | true => exact .inl ⟨w, rfl, hw, next_inj ((exec_cfg_valid hr hw).symm.trans h)⟩
    | false => exact .inr (.inl ⟨w, rfl, hw, next_inj ((exec_cfg_invalid hr hw).symm.trans h)⟩)
  | enq b =>
    by_cases hp : s.empty = true → s.head = s.tail
    · exact .inr (.inr (.inl ⟨b, rfl, hp, next_inj ((exec_enq hr b hp).symm.trans h)⟩))
    · obtain ⟨he, hne⟩ := Classical.not_imp.mp hp
      exact .inr (.inr (.inr (.inl ⟨b, rfl, he, hne, next_inj ((exec_enq_broken hr b he hne).symm.trans h)⟩)))
  | txtick => exact .inr (.inr (.inr (.inr (.inl ⟨rfl, next_inj ((exec_txtick hr).symm.trans h)⟩))))
  | rxtick v => exact .inr (.inr (.inr (.inr (.inr ⟨v, rfl, next_inj ((exec_rxtick hr v).symm.trans h)⟩))))

end Sys2Proof.Machine
end

