-- ==== Sys2Proof/Laws/PerInstr.lean ====
section
/-! SUPPORT. Statements about every instruction as syntax, one lemma for each constructor of Instr. -/

namespace Sys2Proof.Laws.EncodingRow

/-- The encoder writes words of the instruction's own row of the table (30_encoding.md R59). -/
def Statement (i : Instr) : Prop := encode i &&& (rowOf i).mask = (rowOf i).bits

theorem cfg (w : ConfigWord) : Statement (.cfg w) := by
  apply BitVec.eq_of_getLsbD_eq
  intro j hj
  have hm : ∀ j < 18, (0x30000#18).getLsbD j = decide (16 ≤ j) := by decide
  by_cases h : j < 16
  · simp [encode, rowOf, rowCfg, hm j hj, h]
  · simp [encode, rowOf, rowCfg, BitVec.getLsbD_of_ge w j (by omega)]

theorem enq (b : Byte) : Statement (.enq b) := by
  apply BitVec.eq_of_getLsbD_eq
  intro j hj
  have hm : ∀ j < 18, (0x3FF00#18).getLsbD j = decide (8 ≤ j) := by decide
  have hz : ∀ j < 8, (0x10000#18).getLsbD j = false := by decide
  by_cases h : j < 8
  · simp [encode, rowOf, rowEnq, hm j hj, hz j h, h]
  · simp [encode, rowOf, rowEnq, hm j hj, Nat.le_of_not_lt h]

theorem txtick : Statement .txtick := by
  unfold Statement
  decide

theorem rxtick (v : Level) : Statement (.rxtick v) := by
  cases v <;> (unfold Statement; decide)

end Sys2Proof.Laws.EncodingRow
end

