-- ==== Sys2Proof/Laws/Step.lean ====
section
/-! SUPPORT. What `step` answers, by the input at the front. -/

namespace Sys2Proof.Machine

variable {s t : State}

/-- The state with its first input taken. -/
abbrev taken (s : State) (rest : List Input) : State := { s with pending := rest, draws := s.draws + 1 }

theorem step_of_nothing (h : s.pending = []) : step s = .next s := by
  simp [step, fetch, h]

theorem step_of_input {x : Input} {rest : List Input} (h : s.pending = x :: rest) :
    step s = perform x.action (taken s rest) := by
  simp [step, fetch, h]

theorem applyInput_eq (x : Input) (s : State) :
    applyInput x s = perform x.action { s with draws := s.draws + 1 } := by
  rw [applyInput, step_of_input (rest := s.pending) rfl]
  rfl

/-- A step that answers a next state did one of these. -/
theorem step_next (h : step s = .next t) :
    (s.pending = [] ∧ t = s) ∨
    ∃ x rest, s.pending = x :: rest ∧
      ((x.action = .idle ∧ t = taken s rest) ∨
       (x.action = .reset ∧ t = applyReset (taken s rest)) ∨
       (∃ i, x.action = .run i ∧ exec i (taken s rest) = .next t) ∨
       (∃ c o, x = .restore c o ∧ s.started = true ∧ t = restoreState c o (taken s rest))) := by
  cases hp : s.pending with
  | nil =>
    rw [step_of_nothing hp] at h
    cases h
    exact .inl ⟨rfl, rfl⟩
  | cons x rest =>
    rw [step_of_input hp] at h
    refine .inr ⟨x, rest, rfl, ?_⟩
    cases ha : x.action with
    | idle => rw [ha] at h; cases h; exact .inl ⟨rfl, rfl⟩
    | reset => rw [ha] at h; cases h; exact .inr (.inl ⟨rfl, rfl⟩)
    | run i => rw [ha] at h; exact .inr (.inr (.inl ⟨i, rfl, h⟩))
    | refuse r => rw [ha] at h; cases h
    | restore c o =>
      rw [ha] at h
      have hx : x = .restore c o := by
        cases x with
        | command w => simp only [Input.action, commandAction] at ha; split at ha <;> cases ha
        | pins p =>
          have hr : ∀ a ∈ p.strobes, a ≠ .restore c o := by
            intro a hm he
            subst he
            simp only [Pins.strobes, List.mem_append] at hm
            rcases hm with (((hm | hm) | hm) | hm) | hm <;> (split at hm <;> simp at hm)
          simp only [Input.action, Pins.action] at ha
          split at ha
          · cases ha
          · next a hs => exact absurd ha (hr a (by rw [hs]; exact List.mem_singleton.mpr rfl))
          · cases ha
        | restore c' o' => simpa [Input.action] using ha
      simp only [perform, applyRestore] at h
      split at h
      · next hst => cases h; exact .inr (.inr (.inr ⟨c, o, hx, hst, rfl⟩))
      · cases h

end Sys2Proof.Machine
end

