-- ==== Sys2Proof/Laws/Runs.lean ====
section
/-! SUPPORT. The output ports of a step, the levels of a frame on the line, and the end of a run. -/

namespace Sys2Proof.Machine

variable {s t : State}

/-! ### Output ports -/

@[simp] theorem outputs_rxData (s t : State) : (outputs s t).rxData = t.rxData := rfl
@[simp] theorem outputs_rxStatus (s t : State) : (outputs s t).rxStatus = t.rxStatus := rfl

/-- Without a new event neither pulse is there. -/
theorem outputs_of_no_event (hd : t.delivered = s.delivered) (ho : t.overruns = s.overruns) :
    (outputs s t).deliverValid = false ∧ (outputs s t).overrun = none := by
  simp [outputs, hd, ho]

/-! ### Frames on the line -/

@[simp] theorem frameLevels_length (fd : FrameDescriptor) (f : FrameBits) : (frameLevels fd f).length = frameLen fd := by
  simp [frameLevels]

theorem frameLevels_getElem (fd : FrameDescriptor) (f : FrameBits) {i : Nat} (h : i < (frameLevels fd f).length) :
    (frameLevels fd f)[i] = f.getLsbD i := by
  simp [frameLevels]

/-- What is left of a frame from position `p` on. -/
theorem frameLevels_drop (fd : FrameDescriptor) (f : FrameBits) (p : Nat) :
    (frameLevels fd f).drop p = (List.range (frameLen fd - p)).map fun i => f.getLsbD (p + i) := by
  apply List.ext_getElem <;> simp [frameLevels]

/-! ### The end of a run -/

theorem bringsWork_of_enq {x : Input} {b : Byte} (h : x.action = .run (.enq b)) : x.bringsWork = true := by
  simp [Input.bringsWork, h]

theorem bringsWork_of_cfg {x : Input} {w : ConfigWord} (h : x.action = .run (.cfg w)) : x.bringsWork = true := by
  simp [Input.bringsWork, h]

/-- A finished run stays finished when an input is taken that changes nothing else. -/
theorem finished_taken {x : Input} {rest : List Input} (h : s.Finished) (hp : s.pending = x :: rest) :
    (taken s rest).Finished where
  quiescent := ⟨h.quiescent.fault, h.quiescent.txActive, h.quiescent.empty, h.quiescent.rxActive⟩
  noWork y hy := h.noWork y (by rw [hp]; exact List.mem_cons_of_mem x hy)

end Sys2Proof.Machine
end

