-- ==== Sys2Proof/Machine/TraceText.lean ====
section
/-! DEFINITION. The written form of traces, one operation per line (30_encoding.md R79, R80). A spelling only: nothing here adds to
the engine. -/

namespace Sys2Proof.Machine

/-- A line without its comment: "Comments run from `;` to the end of the line" (30_encoding.md R79). -/
def withoutComment (line : List Char) : List Char := line.takeWhile (· != ';')

/-- The words of a line, in order; `acc` is the word being read. -/
def wordsFrom (acc : List Char) : List Char → List (List Char)
  | [] => if acc.isEmpty then [] else [acc]
  | c :: cs =>
    if c == ' ' then (if acc.isEmpty then wordsFrom [] cs else acc :: wordsFrom [] cs)
    else wordsFrom (acc ++ [c]) cs

/-- The value of a digit in a base up to 16. -/
def digitValue (base : Nat) (c : Char) : Option Nat :=
  let v :=
    if '0'.toNat ≤ c.toNat ∧ c.toNat ≤ '9'.toNat then c.toNat - '0'.toNat
    else if 'A'.toNat ≤ c.toNat ∧ c.toNat ≤ 'F'.toNat then c.toNat - 'A'.toNat + 10
    else if 'a'.toNat ≤ c.toNat ∧ c.toNat ≤ 'f'.toNat then c.toNat - 'a'.toNat + 10
    else 16
  if v < base then some v else none

/-- A number in a base, at least one digit long. -/
def numeral (base : Nat) : List Char → Option Nat
  | [] => none
  | cs => cs.foldlM (fun n c => (digitValue base c).map fun d => n * base + d) 0

/-- What follows `key` in a word that begins with it. -/
def afterKey (key : String) (word : List Char) : Option (List Char) :=
  if key.toList.isPrefixOf word then some (word.drop key.toList.length) else none

/-- A hexadecimal number that fits `width` bits. -/
def hexWord (width : Nat) (word : List Char) : Option (BitVec width) :=
  match (afterKey "0x" word).bind (numeral 16) with
  | some n => if n < 2 ^ width then some (BitVec.ofNat width n) else none
  | none => none

/-- A sampled level, 0 or 1. -/
def levelWord (word : List Char) : Option Level :=
  if word = ['0'] then some space else if word = ['1'] then some mark else none

/-- One keyword of the keyword form of CFG added to those read so far (30_encoding.md R79). -/
def readKeyword (k : CfgKeywords) (word : List Char) : Option CfgKeywords :=
  if word = "start=1".toList then some k
  else if word = "data=5".toList then some { k with data := .five }
  else if word = "data=6".toList then some { k with data := .six }
  else if word = "data=7".toList then some { k with data := .seven }
  else if word = "data=8".toList then some { k with data := .eight }
  else if word = "parity=none".toList then some { k with parity := .none }
  else if word = "parity=odd".toList then some { k with parity := .odd }
  else if word = "parity=even".toList then some { k with parity := .even }
  else if word = "parity=mark".toList then some { k with parity := .mark }
  else if word = "parity=space".toList then some { k with parity := .space }
  else if word = "stop=1".toList then some { k with stop := .one }
  else if word = "stop=1.5".toList then some { k with stop := .oneAndHalf }
  else if word = "stop=2".toList then some { k with stop := .two }
  else match afterKey "txbaud=" word, afterKey "rxbaud=" word with
    | some cs, _ => (numeral 10 cs).map fun r => { k with txBaud := r }
    | none, some cs => (numeral 10 cs).map fun r => { k with rxBaud := r }
    | none, none => none

/-- The operands of CFG: a hexadecimal word, or keywords whose rates are in the table (30_encoding.md R79). -/
def readCfg (words : List (List Char)) : Option TraceLine :=
  match words.head?.bind (hexWord 16) with
  | some w => if words.length = 1 then some (.cfgWord w) else none
  | none =>
    match words.foldlM readKeyword {} with
    | some k => if k.word.isSome then some (.cfg k) else none
    | none => none

/-- A line that is one word: RESET, TXTICK, and the repetitions `TXTICK*n` and `LOOP*n` (30_encoding.md R79, R80). -/
def readSingle (word : List Char) : Option TraceLine :=
  if word = "RESET".toList then some .reset
  else if word = "TXTICK".toList then some (.txtick 1)
  else match afterKey "TXTICK*" word, afterKey "LOOP*" word with
    | some cs, _ => (numeral 10 cs).map .txtick
    | none, some cs => (numeral 10 cs).map .loop
    | none, none => none

/-- A line of words. -/
def readWords : List (List Char) → Option TraceLine
  | [] => none
  | word :: rest =>
    if word = "CFG".toList then readCfg rest
    else if word = "RXTICK".toList then
      if rest.isEmpty then none else (rest.mapM levelWord).map .rxtick
    else match rest with
      | [] => readSingle word
      | [operand] =>
        if word = "ENQ".toList then (hexWord 8 operand).map .enq
        else if word = "SEND".toList then (hexWord 8 operand).map .send
        else none
      | _ :: _ :: _ => none

/-- A written line: nothing for a line without an operation, none for one that is no trace line. -/
def readLine (line : String) : Option (List TraceLine) :=
  match wordsFrom [] (withoutComment line.toList) with
  | [] => some []
  | ws => (readWords ws).map fun l => [l]

/-- A written trace. -/
def readTrace : List String → Option (List TraceLine)
  | [] => some []
  | l :: ls =>
    match readLine l, readTrace ls with
    | some a, some b => some (a ++ b)
    | _, _ => none

/-- A trace run line by line, stopping at the first line that stops; none where a line is no trace line. -/
def runTrace : List TraceLine → State → Option Result
  | [], s => some (.next s)
  | l :: ls, s =>
    match l.run s with
    | some (.next t) => runTrace ls t
    | some (.fault f) => some (.fault f)
    | some (.refused r) => some (.refused r)
    | none => none

end Sys2Proof.Machine
end

