-- ==== Sys2Proof/Tests/Slice0.lean ====
section
/-! SUPPORT. Tests on fixed values, each expected result taken from the spec (most from 95_test_vectors.md, named by its id), and for
every obligation with hypotheses a witness that meets them. -/

namespace Sys2Proof.Tests

open Sys2Proof Sys2Proof.Machine

/-! ### Small states -/

/-- The next state of an outcome. -/
def nextOf : Result → Option State
  | .next s => some s
  | .fault _ => none
  | .refused _ => none

/-- The fault an outcome reports. -/
def faultOf : Result → Option Fault
  | .next _ => none
  | .fault f => some f
  | .refused _ => none

/-- The refusal of an outcome. -/
def refusalOf : Result → Option Refusal
  | .next _ => none
  | .fault _ => none
  | .refused r => some r

/-- Reset, with another configuration word. -/
def configured (w : ConfigWord) : State := { State.reset with cfg := w }

/-- Shifting the 8N1 frame of 0x41 at position `p`, nothing queued. -/
def shifting (p : Position) : State := { State.reset with txActive := true, txFrame := 0xE82#12, txPos := p, txOut := space }

/-- Shifting as `shifting`, with the FIFO of these slots and indices, not empty. -/
def queued (p : Position) (m : Memory) (head tail : SlotIndex) : State :=
  { shifting p with fifo := m, head := head, tail := tail, empty := false }

/-- Receiving an 8N1 frame at position `p`, the start bit sampled and 1 sampled since. -/
def receiving (p : Position) : State := { State.reset with rxActive := true, rxFrame := 0xFFE#12, rxPos := p }

/-- A faulted engine. -/
def faulted : State := { State.reset with fault := some .invalidSelection }

/-- An engine that was never reset, full of other values. -/
def unknown : State :=
  { shifting 13 with cfg := 0xFFFF#16, fifo := [(3, 0x55#8)], head := 2, fault := some .fifoInvariant, started := false }

/-- The broken state of vector Q6. -/
def broken : State := { State.reset with head := 2, tail := 3 }

/-- The stuck state of vector Q7. -/
def stuck : State := { State.reset with empty := false, tail := 2 }

theorem reset_running : State.reset.Running := ⟨rfl, rfl⟩
theorem shifting_running (p : Position) : (shifting p).Running := ⟨rfl, rfl⟩
theorem queued_running (p : Position) (m : Memory) (h t : SlotIndex) : (queued p m h t).Running := ⟨rfl, rfl⟩
theorem receiving_running (p : Position) : (receiving p).Running := ⟨rfl, rfl⟩

theorem reset_lawful : State.reset.Lawful := by constructor <;> decide
theorem shifting_lawful : (shifting 9).Lawful := by constructor <;> decide
theorem shifting_start_lawful : (shifting 0).Lawful := by constructor <;> decide
theorem queued_lawful : (queued 9 [(0, 0xA5#8), (15, 0x5A#8)] 15 1).Lawful := by constructor <;> decide
theorem full_lawful : (queued 3 [(4, 0x77#8)] 4 4).Lawful := by constructor <;> decide
theorem queued_lawful_present :
    (present (.command 0x20000#18) (queued 9 [(0, 0xA5#8), (15, 0x5A#8)] 15 1)).Lawful := by constructor <;> decide
theorem receiving_lawful : (receiving 9).Lawful := by constructor <;> decide

theorem inv_of_lawful {s : State} (h : s.Lawful) (hp : s.pending = []) : s.Inv :=
  ⟨h, by rw [hp]; exact fun _ hx => absurd hx (List.not_mem_nil)⟩

theorem reset_inv : State.reset.Inv := inv_of_lawful reset_lawful rfl
theorem reset_quiescent : State.reset.Quiescent := ⟨rfl, rfl, rfl, rfl⟩

/-- Reset with ticks on an idle line to come, and nothing else. -/
def lastTicks : State := { State.reset with pending := [.command 0x20000#18, .command 0x30001#18] }

theorem lastTicks_finished : lastTicks.Finished := ⟨⟨rfl, rfl, rfl, rfl⟩, by decide⟩

/-! ### Decoding and well-formedness -/

theorem test_decode_cfg : decode 0b000111011100000110#18 = .ok (.cfg 0x7706#16) := by decide
theorem test_decode_enq : decode 0b010000000001000001#18 = .ok (.enq 0x41#8) := by decide
theorem test_decode_txtick : decode 0b100000000000000000#18 = .ok .txtick := by decide
theorem test_decode_rxtick_space : decode 0b110000000000000000#18 = .ok (.rxtick space) := by decide
theorem test_decode_rxtick_mark : decode 0b110000000000000001#18 = .ok (.rxtick mark) := by decide

/-- The other words of 95_test_vectors.md 2.1. -/
theorem test_decode_listed :
    decode 0x00000#18 = .ok (.cfg 0x0000#16) ∧ decode 0x0FFFF#18 = .ok (.cfg 0xFFFF#16) ∧
    decode 0x10000#18 = .ok (.enq 0x00#8) ∧ decode 0x100FF#18 = .ok (.enq 0xFF#8) ∧
    decode 0x10100#18 = .error .reservedCommand ∧ decode 0x1FFFF#18 = .error .reservedCommand ∧
    decode 0x20001#18 = .error .reservedCommand ∧ decode 0x30002#18 = .error .reservedCommand ∧
    decode 0x3FFFF#18 = .error .reservedCommand := by decide

/-- One ill-formed CFG for each check of `Valid` (K7, K8, K10, K11, K12). -/
theorem test_wellFormed_refuses_start : (Instr.cfg 0x7707#16).wellFormed = false := by decide
theorem test_wellFormed_refuses_parity : (Instr.cfg 0x772E#16).wellFormed = false := by decide
theorem test_wellFormed_refuses_stop : (Instr.cfg 0x77C6#16).wellFormed = false := by decide
theorem test_wellFormed_refuses_txbaud : (Instr.cfg 0x7E06#16).wellFormed = false := by decide
theorem test_wellFormed_refuses_rxbaud : (Instr.cfg 0xF706#16).wellFormed = false := by decide
theorem test_wellFormed_accepts :
    (Instr.cfg 0x0000#16).wellFormed = true ∧ (Instr.cfg 0xDD96#16).wellFormed = true ∧
    (Instr.enq 0xFF#8).wellFormed = true ∧ Instr.txtick.wellFormed = true ∧ (Instr.rxtick space).wellFormed = true := by decide

/-- K1 to K6: validity, frame length and rates. -/
theorem test_config_words :
    ([0x7706#16, 0x0000#16, 0xDD96#16, 0x7794#16, 0x7748#16, 0x7494#16].map fun w =>
      (validConfig w, frameLen (descriptor w), txRateOf w, rxRateOf w)) =
    [(true, 10, 9600, 9600), (true, 7, 110, 110), (true, 12, 115200, 115200), (true, 11, 9600, 9600),
     (true, 9, 9600, 9600), (true, 11, 1200, 9600)] := by decide

/-! ### The frame formatter (B1 to B17) -/

theorem test_build_parity :
    ([(0x41#8, 0x7716#16), (0x41#8, 0x770E#16), (0x43#8, 0x7716#16), (0x43#8, 0x770E#16), (0x41#8, 0x771E#16),
      (0x41#8, 0x7726#16)].map fun x => buildFrame (descriptor x.2) x.1) =
    [0xC82#12, 0xE82#12, 0xE86#12, 0xC86#12, 0xE82#12, 0xC82#12] := by decide

theorem test_build_widths :
    ([(0xC1#8, 0x7794#16), (0xFF#8, 0x7700#16), (0x15#8, 0x7748#16), (0x3F#8, 0x7782#16), (0xFF#8, 0x7796#16),
      (0x00#8, 0x778E#16)].map fun x => buildFrame (descriptor x.2) x.1) =
    [0xE82#12, 0xFFE#12, 0xFAA#12, 0xFFE#12, 0xDFE#12, 0xE00#12] := by decide

/-! ### CFG -/

/-- C-b: the reset state with the new word, whatever was in flight. -/
theorem test_cfg_clears :
    nextOf (exec (.cfg 0x7494#16) { queued 3 [(0, 0x42#8)] 0 1 with rxActive := true, rxPos := 4, rxFrame := 0xFF2#12 }) =
      some (configured 0x7494#16) ∧
    (configured 0x7494#16).txRate = 1200 ∧ (configured 0x7494#16).rxRate = 9600 ∧ frameLen (configured 0x7494#16).fd = 11 := by
  decide

/-- C-c and C-d. -/
theorem test_cfg_invalid_then_stops :
    nextOf (exec (.cfg 0x7707#16) State.reset) = some faulted ∧
    faultOf (exec (.cfg 0x7706#16) faulted) = some .invalidSelection := by decide

/-! ### ENQ -/

/-- Q1, Q3, Q4. -/
theorem test_enq_accepts :
    nextOf (exec (.enq 0x41#8) State.reset) = some { State.reset with txActive := true, txFrame := 0xE82#12 } ∧
    nextOf (exec (.enq 0x77#8) (queued 0 [] 3 15)) = some (queued 0 [(15, 0x77#8)] 3 0) ∧
    nextOf (exec (.enq 0x66#8) (queued 0 [] 4 3)) = some (queued 0 [(3, 0x66#8)] 4 4) := by decide

/-- Q5, Q6, Q7. -/
theorem test_enq_drop_fault_and_stuck :
    nextOf (exec (.enq 0x67#8) (queued 0 [(4, 0x01#8)] 4 4)) =
      some { queued 0 [(4, 0x01#8)] 4 4 with overruns := [0x67#8] } ∧
    nextOf (exec (.enq 0x11#8) broken) = some { broken with fault := some .fifoInvariant } ∧
    nextOf (exec (.enq 0x22#8) stuck) = some { stuck with fifo := [(2, 0x22#8)], tail := 3 } := by decide

/-! ### TXTICK -/

/-- T3: the head wraps, the slot keeps its byte. -/
theorem test_txtick_loads_next :
    nextOf (exec .txtick (queued 9 [(0, 0xA5#8), (15, 0x5A#8)] 15 1)) =
      some { queued 0 [(0, 0xA5#8), (15, 0x5A#8)] 0 1 with txOut := true, txFrame := 0xEB4#12 } := by decide

/-- T2, its second and its tenth tick. -/
theorem test_txtick_shifts :
    (nextOf (exec .txtick (shifting 1))).map (fun t => (t.txOut, t.txPos, t.txActive)) = some (true, 2#4, true) ∧
    (nextOf (exec .txtick (shifting 9))).map (fun t => (t.txOut, t.txPos, t.txActive, t.txFrame)) =
      some (true, 0#4, false, 0xE82#12) := by decide

/-! ### RXTICK -/

/-- X3 and X5, the last sample. -/
theorem test_rxtick_status :
    (nextOf (exec (.rxtick space) { receiving 9 with rxFrame := 0xE82#12 })).map
      (fun t => (t.delivered, t.rxFrame, t.rxData, t.rxStatus, t.rxPos)) =
      some ([⟨0x41#8, 0b10#2⟩], 0xC82#12, 0x41#8, 0b10#2, 0#4) ∧
    (nextOf (exec (.rxtick mark) { receiving 10 with cfg := 0x7794#16, rxFrame := 0xF82#12 })).map
      (fun t => (t.delivered, t.rxFrame)) = some ([⟨0x41#8, 0b01#2⟩], 0xF82#12) := by decide

/-- P1, bit-times 1 and 3. -/
theorem test_rxtick_samples :
    (nextOf (exec (.rxtick space) State.reset)).map (fun t => (t.rxActive, t.rxPos, t.rxFrame)) = some (true, 1#4, 0xFFE#12) ∧
    (nextOf (exec (.rxtick space) (receiving 2))).map (fun t => (t.rxPos, t.rxFrame, t.delivered)) =
      some (3#4, 0xFFA#12, []) := by decide

/-- The holding register stays on its ports between events (R18, R34): after X2's Deliver, a tick that delivers nothing. -/
theorem test_ports_hold :
    (nextOf (exec .txtick { State.reset with rxData := 0x41#8, rxStatus := 0b01#2, delivered := [⟨0x41#8, 0b01#2⟩] })).map
      (fun t => outputs { State.reset with rxData := 0x41#8, rxStatus := 0b01#2, delivered := [⟨0x41#8, 0b01#2⟩] } t) =
      some ⟨true, false, false, false, 9600, 9600, false, 0x41#8, 0b01#2, none⟩ := by decide

/-! ### Steps, reset, traces -/

/-- F-c: RESET from a faulted engine; U5: from an unknown one. -/
theorem test_reset_from_anything :
    nextOf (step (present (.pins Pins.resetOnly) faulted)) = some { State.reset with draws := 1 } ∧
    nextOf (step (present (.pins Pins.resetOnly) unknown)) = some { State.reset with draws := 1 } := by decide

/-- F-e, F-f and F-g. -/
theorem test_refusals :
    refusalOf (step (present (.command 0x20001#18) faulted)) = some .reservedCommand ∧
    refusalOf (step (present (.pins { Pins.resetOnly with txTick := true }) unknown)) = some .simultaneousOperations ∧
    refusalOf (step (present (.command 0x20000#18) unknown)) = some .beforeReset := by decide

/-- A table row's word is decoded, and presented it is the next thing run. -/
theorem test_table_words :
    decodeTableWord 24 0x10041 = some (.enq 0x41#8) ∧ decodeTableWord 24 0x20000 = some .txtick ∧
    decodeTableWord 24 0x30002 = none ∧ decodeTableWord 24 0x40000 = none ∧
    (nextOf (step (State.reset.withFetchWord 24 0x10041))).map (fun t => (t.txFrame, t.pending)) =
      some (0xE82#12, []) := by decide

/-- The lines of P4 and P6, read. -/
theorem test_trace_lines :
    readTrace ["RESET", "ENQ 0x41 ; bypass", "TXTICK*3", "CFG data=7 parity=even stop=2 txbaud=1200 rxbaud=9600",
      "CFG 0x7707", "", "RXTICK 1 1 1", "LOOP*10", "SEND 0xC1"] =
    some [.reset, .enq 0x41#8, .txtick 3, .cfg ⟨.seven, .even, .two, 1200, 9600⟩, .cfgWord 0x7707#16,
      .rxtick [true, true, true], .loop 10, .send 0xC1#8] ∧
    CfgKeywords.word ⟨.seven, .even, .two, 1200, 9600⟩ = some 0x7494#16 ∧
    readLine "CFG txbaud=9601" = none ∧ readLine "ENQ 0x100" = none := by decide

/-! ### Witnesses: reset and start-up -/

/-- The data pins of the other strobes show something. -/
def noisyReset : Pins := { Pins.resetOnly with cfgWord := 0xFFFF#16, enqByte := 0x41#8, rxIn := space }

theorem witness_ResetGivesTheTabledValuesFromAnyState :
    (present (.pins noisyReset) unknown).pending = .pins noisyReset :: [] ∧ noisyReset.strobes = [.reset] := by decide

/-- A lawful restore to come: the lawful Shifting state of T3. -/
theorem restore_lawful :
    (Input.restore (saveCheckpoint (queued 9 [(0, 0xA5#8), (15, 0x5A#8)] 15 1))
      (omittedOf (queued 9 [(0, 0xA5#8), (15, 0x5A#8)] 15 1))).Lawful := by
  show State.Lawful _
  constructor <;> decide

theorem witness_ResetEstablishesTheInvariant :
    ∀ x ∈ (present (.restore (saveCheckpoint (queued 9 [(0, 0xA5#8), (15, 0x5A#8)] 15 1))
      (omittedOf (queued 9 [(0, 0xA5#8), (15, 0x5A#8)] 15 1))) unknown).pending, x.Lawful := by
  intro x hx
  rw [List.mem_singleton.mp hx]
  exact restore_lawful

theorem witness_NothingButResetStepsBeforeTheFirstReset :
    unknown.started = false ∧
    (∃ t, step (present (.pins Pins.resetOnly) unknown) = .next t) ∧
    (∃ t, step (present (.pins Pins.quiet) unknown) = .next t) :=
  ⟨rfl, ⟨_, rfl⟩, ⟨_, rfl⟩⟩

/-! ### Witnesses: configuration -/

theorem witness_CfgFollowsItsRule :
    (faulted.started = true ∧ faulted.fault = some .invalidSelection) ∧
    (State.reset.started = true ∧ State.reset.fault = none ∧ validConfig 0xE706#16 = false) ∧
    (State.reset.started = true ∧ State.reset.fault = none ∧ validConfig 0xDD96#16 = true) := by decide

theorem witness_InvalidSelectionChangesOnlyTheFault :
    (shifting 3).Running ∧ validConfig 0xF706#16 = false := ⟨shifting_running 3, by decide⟩

theorem witness_DecodeGivesTheSelectedDescriptor : validConfig 0xDDA6#16 = true ∧ validConfig 0x0000#16 = true := by decide

theorem witness_BaudTableGivesTheListedRates :
    14 ≤ ((0x7E06#16).extractLsb' 8 4).toNat ∧ 14 ≤ ((0xF706#16).extractLsb' 12 4).toNat := by decide

theorem witness_RatesAreIndependent :
    (queued 3 [(0, 0x42#8)] 0 1).Running ∧ validConfig 0x7706#16 = true ∧ validConfig 0xD706#16 = true ∧
    validConfig 0x7D06#16 = true ∧
    (0x7706#16).extractLsb' 8 4 = (0xD706#16).extractLsb' 8 4 ∧
    (0x7706#16).extractLsb' 12 4 = (0x7D06#16).extractLsb' 12 4 :=
  ⟨queued_running .., by decide⟩

theorem witness_CfgIsIdempotent : (receiving 4).Running ∧ validConfig 0xDD96#16 = true := ⟨receiving_running 4, by decide⟩

theorem witness_ReconfigurationAbortsAndTheNextFrameIsFresh :
    (queued 3 [(0, 0x42#8)] 0 1).Running ∧ validConfig 0x7494#16 = true := ⟨queued_running .., by decide⟩

/-! ### Witnesses: ENQ -/

theorem witness_EnqueueBypassesAnIdleTransmitter :
    State.reset.Running ∧ State.reset.empty = true ∧ State.reset.head = State.reset.tail ∧ State.reset.txActive = false :=
  ⟨reset_running, by decide⟩

/-- Both conditions, and the byte that fills the last free slot. -/
theorem witness_EnqueueAppendsAtTail :
    (shifting 0).Running ∧ ((shifting 0).empty = true ∧ (shifting 0).head = (shifting 0).tail ∧ (shifting 0).txActive = true) ∧
    (queued 0 [(4, 0x77#8)] 4 3).Running ∧ ((queued 0 [(4, 0x77#8)] 4 3).empty = false ∧ (4#4 : SlotIndex) ≠ 3#4) ∧
    Memory.wf [(4, 0x77#8)] = true ∧ fifoCount (queued 0 [(4, 0x77#8)] 4 3) + 1 = 16 ∧ (0#4 : SlotIndex) ≠ 3#4 :=
  ⟨shifting_running 0, by decide, queued_running .., by decide⟩

theorem witness_EnqueueDropsWhenFull :
    (queued 0 [(4, 0x01#8)] 4 4).Running ∧ (queued 0 [(4, 0x01#8)] 4 4).empty = false ∧
    ∃ t, exec (.enq 0x67#8) (queued 0 [(4, 0x01#8)] 4 4) = .next t ∧ t.overruns ≠ (queued 0 [(4, 0x01#8)] 4 4).overruns :=
  ⟨queued_running .., rfl, _, rfl, by decide⟩

theorem witness_EnqueuePreconditionFault :
    (broken.Running ∧ broken.empty = true ∧ broken.head ≠ broken.tail) ∧
    (∃ t, exec (.enq 0x11#8) broken = .next t ∧ t.fault ≠ none) ∧
    (State.reset.Inv ∧ ∃ t, exec (.enq 0x11#8) State.reset = .next t) :=
  ⟨⟨⟨rfl, rfl⟩, by decide⟩, ⟨_, rfl, by decide⟩, reset_inv, _, rfl⟩

/-- One state for each branch, and the broken one. -/
theorem witness_EnqueueFrame :
    (∃ t, exec (.enq 0x41#8) State.reset = .next t) ∧ (enqAppends State.reset = false ∧ enqPrecondition State.reset = true) ∧
    (∃ t, exec (.enq 0x66#8) (queued 0 [] 4 3) = .next t) ∧
    (enqAppends (queued 0 [] 4 3) = true ∧ enqBypasses (queued 0 [] 4 3) = false ∧ fifoFull (queued 0 [] 4 3) = false) ∧
    (∃ t, exec (.enq 0x67#8) (queued 0 [] 4 4) = .next t) ∧ fifoFull (queued 0 [] 4 4) = true ∧
    (∃ t, exec (.enq 0x11#8) broken = .next t) ∧ enqPrecondition broken = false :=
  ⟨⟨_, rfl⟩, by decide, ⟨_, rfl⟩, by decide, ⟨_, rfl⟩, by decide, ⟨_, rfl⟩, by decide⟩

/-! ### Witnesses: TXTICK -/

theorem witness_TicksWithNothingToDoChangeNothing :
    State.reset.Running ∧ State.reset.txActive = false ∧ State.reset.rxActive = false := ⟨reset_running, rfl, rfl⟩

theorem witness_TransmitTickFollowsItsRule :
    (faulted.started = true ∧ faulted.fault = some .invalidSelection) ∧
    (State.reset.fault = none ∧ State.reset.txActive = false) ∧
    ((shifting 0).txActive = true ∧ (shifting 0).txPos.toNat + 1 ≠ frameLen (shifting 0).fd) ∧
    ((shifting 11).txActive = true ∧ (shifting 11).txPos.toNat < 12 ∧ (shifting 11).txPos.toNat + 1 ≠ frameLen (shifting 11).fd) ∧
    ((queued 9 [] 15 1).txPos.toNat + 1 = frameLen (queued 9 [] 15 1).fd ∧ (queued 9 [] 15 1).empty = false) ∧
    ((shifting 9).txPos.toNat + 1 = frameLen (shifting 9).fd ∧ (shifting 9).empty = true) := by decide

theorem witness_TransmitTickCompletesAtEveryPosition :
    (shifting 12).Running ∧ (shifting 12).txActive = true ∧ 12 ≤ (shifting 12).txPos.toNat ∧ (shifting 14).txPos.toNat < 15 ∧
    12 ≤ (shifting 15).txPos.toNat :=
  ⟨shifting_running 12, by decide⟩

theorem witness_TransmitTickFrame :
    (∃ t, exec .txtick State.reset = .next t) ∧ State.reset.txActive = false ∧
    (∃ t, exec .txtick (queued 9 [(0, 0xA5#8), (15, 0x5A#8)] 15 1) = .next t ∧ t.head ≠ 15#4) ∧
    (∃ t, exec .txtick (shifting 9) = .next t) ∧ (shifting 9).empty = true :=
  ⟨⟨_, rfl⟩, rfl, ⟨_, rfl, by decide⟩, ⟨_, rfl⟩, rfl⟩

/-! ### Witnesses: RXTICK and CFG -/

theorem witness_ReceiveTickFollowsItsRule :
    (faulted.started = true ∧ faulted.fault = some .invalidSelection) ∧
    (State.reset.started = true ∧ State.reset.fault = none ∧ State.reset.rxActive = false) ∧
    ((receiving 1).rxActive = true ∧ (receiving 1).rxPos.toNat + 1 ≠ frameLen (receiving 1).fd) ∧
    ((receiving 11).rxPos.toNat < 12 ∧ (receiving 11).rxPos.toNat + 1 ≠ frameLen (receiving 11).fd) ∧
    ((receiving 9).rxPos.toNat + 1 = frameLen (receiving 9).fd) := by decide

theorem witness_ReceiveTickCompletesAtEveryPosition :
    (receiving 12).Running ∧ (receiving 12).rxActive = true ∧ 12 ≤ (receiving 12).rxPos.toNat ∧
    (receiving 14).rxPos.toNat < 15 ∧ 12 ≤ (receiving 15).rxPos.toNat :=
  ⟨receiving_running 12, by decide⟩

theorem witness_ReceiveTickFrame :
    (∃ t, exec (.rxtick space) (receiving 2) = .next t ∧ t.delivered = (receiving 2).delivered) ∧
    (∃ t, exec (.rxtick mark) (receiving 9) = .next t ∧ t.delivered ≠ (receiving 9).delivered) :=
  ⟨⟨_, rfl, by decide⟩, ⟨_, rfl, by decide⟩⟩

theorem witness_CfgFrame :
    (∃ t, exec (.cfg 0xDD96#16) (queued 3 [(0, 0x42#8)] 0 1) = .next t) ∧ validConfig 0xDD96#16 = true ∧
    (∃ t, exec (.cfg 0xFFFF#16) (queued 3 [(0, 0x42#8)] 0 1) = .next t) ∧ validConfig 0xFFFF#16 = false :=
  ⟨⟨_, rfl⟩, by decide, ⟨_, rfl⟩, by decide⟩

/-! ### Witnesses: frames -/

theorem witness_BuiltFramesHaveTheFieldsInOrder :
    parityBit ⟨.one, .eight, .even, .two⟩ 0x41#8 = some false ∧ 7 < dataCount .eight ∧
    (1 + dataCount .eight + parityTicks .even ≤ 10 ∧ 10 ≤ 11) ∧ (1 + dataCount .five + parityTicks .none ≤ 6 ∧ 6 ≤ 11) := by
  decide

theorem witness_ParityBitsMakeTheCountOddOrEven :
    parityBit ⟨.one, .eight, .odd, .one⟩ 0x41#8 = some true ∧ parityBit ⟨.one, .seven, .even, .one⟩ 0xC1#8 = some false := by
  decide

/-- The inner clauses of the extraction: bit 7, a wrong parity bit, and a stop position at 0, first and last. -/
theorem witness_ExtractionInvertsTheFormatter :
    (7 < 8 ∧ 7 < dataCount .eight) ∧
    (parityBit ⟨.one, .seven, .even, .two⟩ 0x41#8 = some false ∧ (0xF82#12).getLsbD 8 ≠ false) ∧
    (9 < frameLen ⟨.one, .seven, .even, .two⟩ ∧ (0xC82#12).getLsbD 9 = false) ∧
    (10 < frameLen ⟨.one, .seven, .even, .two⟩ ∧ (0xA82#12).getLsbD 10 = false) := by decide

/-- B11 and B12. -/
theorem witness_NarrowFramesIgnoreHighBits :
    (∀ i, i < dataCount .seven → (0x41#8).getLsbD i = (0xC1#8).getLsbD i) ∧
    buildFrame ⟨.one, .seven, .even, .two⟩ 0x41#8 = buildFrame ⟨.one, .seven, .even, .two⟩ 0xC1#8 := by decide

/-! ### Witnesses: whole-machine rules -/

theorem witness_FaultsArePreciseAndOnlyResetClearsThem :
    (faulted.started = true ∧ faulted.fault = some .invalidSelection) ∧
    (∃ t, exec (.cfg 0x7707#16) (shifting 3) = .next t ∧ t.fault ≠ none) ∧
    (∃ t, step (present (.pins Pins.resetOnly) faulted) = .next t) ∧
    (∃ t, step (present (.pins Pins.quiet) faulted) = .next t) ∧
    (∀ c o, Input.pins Pins.quiet ≠ .restore c o) ∧ faulted.fault ≠ none :=
  ⟨⟨rfl, rfl⟩, ⟨_, rfl, by decide⟩, ⟨_, rfl⟩, ⟨_, rfl⟩, nofun, by decide⟩

theorem witness_ContractOperationsNeverFault :
    (queued 9 [(0, 0xA5#8), (15, 0x5A#8)] 15 1).Inv ∧ (queued 9 [(0, 0xA5#8), (15, 0x5A#8)] 15 1).Running ∧
    (Instr.cfg 0xDD96#16).wellFormed = true ∧ (Instr.enq 0#8).wellFormed = true ∧ Instr.txtick.wellFormed = true ∧
    (Instr.rxtick mark).wellFormed = true :=
  ⟨inv_of_lawful queued_lawful rfl, queued_running .., by decide⟩

theorem witness_OnlyTheTabledEventsMoveTheTransmitter :
    (∃ t, exec (.enq 0x41#8) State.reset = .next t ∧ State.reset.txActive = false ∧ t.txActive = true) ∧
    (∃ t, exec .txtick (shifting 9) = .next t ∧ (shifting 9).txActive = true ∧ t.txActive = false) ∧
    (∃ t, exec (.cfg 0x7706#16) (shifting 3) = .next t ∧ (shifting 3).txActive = true ∧ t.txActive = false) :=
  ⟨⟨_, rfl, by decide⟩, ⟨_, rfl, by decide⟩, ⟨_, rfl, by decide⟩⟩

theorem witness_OnlyTheTabledEventsMoveTheReceiver :
    (∃ t, exec (.rxtick space) State.reset = .next t ∧ State.reset.rxActive = false ∧ t.rxActive = true) ∧
    (∃ t, exec (.rxtick mark) (receiving 9) = .next t ∧ (receiving 9).rxActive = true ∧ t.rxActive = false) ∧
    (∃ t, exec (.cfg 0x7706#16) (receiving 3) = .next t ∧ (receiving 3).rxActive = true ∧ t.rxActive = false) :=
  ⟨⟨_, rfl, by decide⟩, ⟨_, rfl, by decide⟩, ⟨_, rfl, by decide⟩⟩

theorem witness_OnlyCfgWritesConfigurationAndControlLines :
    (∃ t, exec (.cfg 0xDD96#16) (shifting 3) = .next t ∧ t.cfg ≠ (shifting 3).cfg ∧ t.txOut ≠ (shifting 3).txOut) ∧
    (∃ t, exec .txtick (shifting 1) = .next t ∧ t.txOut ≠ (shifting 1).txOut) :=
  ⟨⟨_, rfl, by decide⟩, ⟨_, rfl, by decide⟩⟩

theorem witness_EachOperationProducesAtMostOneEvent :
    (∃ t, exec .txtick (shifting 1) = .next t) ∧
    (∃ t, exec (.rxtick mark) (receiving 9) = .next t ∧ t.delivered ≠ []) ∧
    (∃ t, exec (.enq 0x67#8) (queued 0 [] 4 4) = .next t ∧ t.overruns ≠ []) :=
  ⟨⟨_, rfl⟩, ⟨_, rfl, by decide⟩, ⟨_, rfl, by decide⟩⟩

theorem witness_TheTwoDirectionsCommute :
    (shifting 11).Running ∧ (shifting 11).txPos.toNat < 12 ∧ (shifting 11).rxPos.toNat < 12 := ⟨shifting_running 11, by decide⟩

/-- A fault, a refusal and a next state, the last at a position the register lacks too. -/
theorem witness_NoOperationReadsTheHoldingRegister :
    (faulted.agreesBehind { faulted with rxStatus := 0b11#2 } ∧ exec .txtick faulted = .fault .invalidSelection) ∧
    (unknown.agreesBehind { unknown with rxData := 0xAA#8 } ∧ exec .txtick unknown = .refused .beforeReset) ∧
    (State.reset.agreesBehind { State.reset with rxData := 0x55#8, dcd := mark, overruns := [0x01#8] } ∧
      ∃ t, exec .txtick State.reset = .next t) ∧
    ((receiving 12).agreesBehind { receiving 12 with rxData := 0x55#8 } ∧
      ∃ t, exec (.rxtick mark) (receiving 12) = .next t) :=
  ⟨⟨rfl, rfl⟩, ⟨rfl, rfl⟩, ⟨rfl, _, rfl⟩, rfl, _, rfl⟩

/-- A tick of each direction to come; an ENQ and a CFG to come; each of the four conditions broken. -/
theorem witness_QuiescenceIsStable :
    (State.reset.started = true ∧ State.reset.Quiescent) ∧
    (lastTicks.started = true ∧ lastTicks.Finished ∧
      (Input.command 0x20000#18).action = .run .txtick ∧ (Input.command 0x30001#18).action = .run (.rxtick mark)) ∧
    (Input.command 0x10041#18 ∈ (present (.command 0x10041#18) State.reset).pending ∧
      (Input.command 0x10041#18).action = .run (.enq 0x41#8) ∧ (Input.command 0x07706#18).action = .run (.cfg 0x7706#16)) ∧
    (faulted.fault ≠ none ∧ (shifting 3).txActive = true ∧ stuck.empty = false ∧ (receiving 3).rxActive = true) :=
  ⟨⟨rfl, reset_quiescent⟩, ⟨rfl, lastTicks_finished, by decide⟩, by decide, by decide⟩

theorem witness_IdleTransmitterWithQueuedBytesIsStuck :
    stuck.txActive = false ∧ stuck.empty = false ∧ (∀ w, Instr.enq 0x22#8 ≠ .cfg w) ∧
    (∃ t, exec (.enq 0x22#8) stuck = .next t) ∧ (∃ t, exec .txtick stuck = .next t) :=
  ⟨rfl, rfl, nofun, ⟨_, rfl⟩, ⟨_, rfl⟩⟩

/-! ### Witnesses: steps, words and pins -/

theorem witness_StepRunsTheDecodedInstruction :
    (present (.command 0x10041#18) State.reset).pending = .command 0x10041#18 :: [] ∧
    decode 0x10041#18 = .ok (.enq 0x41#8) ∧ State.reset.pending = [] := by decide

theorem witness_ReservedWordsAreRefused :
    (present (.command 0x3FFFF#18) faulted).pending = .command 0x3FFFF#18 :: [] ∧
    decode 0x3FFFF#18 = .error .reservedCommand := by decide

/-- Two, five and no strobes. -/
theorem witness_TwoStrobesAreRefused :
    (present (.pins { Pins.quiet with txTick := true, rxTick := true }) State.reset).pending =
      [.pins { Pins.quiet with txTick := true, rxTick := true }] ∧
    2 ≤ [false, false, false, true, true].count true ∧ 2 ≤ [true, true, true, true, true].count true ∧
    [false, false, false, false, false].count true = 0 := by decide

/-- The data pin of another strobe is not 0. -/
theorem witness_PinFormAndCommandWordAgree :
    ({ Pins.ofInstr (.enq 0x41#8) with cfgWord := 0xFFFF#16, rxIn := space } : Pins).strobes = [.run (.enq 0x41#8)] := by decide

theorem witness_DecodeAndEncodeAgree : decode 0x0FFFF#18 = .ok (.cfg 0xFFFF#16) ∧ encode (.rxtick mark) = 0x30001#18 := by
  decide

theorem witness_EveryStepKeepsTheInvariant :
    ∃ t, (present (.command 0x20000#18) (queued 9 [(0, 0xA5#8), (15, 0x5A#8)] 15 1)).Inv ∧
      step (present (.command 0x20000#18) (queued 9 [(0, 0xA5#8), (15, 0x5A#8)] 15 1)) = .next t :=
  ⟨_, ⟨queued_lawful_present, fun x hx => by rw [List.mem_singleton.mp hx]; trivial⟩, rfl⟩

theorem witness_RestoreResumesFromACheckpoint :
    Memory.wf (queued 9 [(0, 0xA5#8), (15, 0x5A#8)] 15 1).fifo = true ∧ State.reset.started = true ∧
    (Input.restore (saveCheckpoint (queued 9 [(0, 0xA5#8), (15, 0x5A#8)] 15 1))
      (omittedOf (queued 9 [(0, 0xA5#8), (15, 0x5A#8)] 15 1))).Lawful :=
  ⟨by decide, rfl, restore_lawful⟩

theorem witness_KeywordConfigurationSelectsWhatItSays :
    CfgKeywords.word ⟨.five, .odd, .oneAndHalf, 110, 115200⟩ = some 0xD048#16 ∧ 110 ∈ baudTable ∧ 115200 ∈ baudTable := by decide

/-! ### Witnesses: runs -/

theorem witness_TheFifoIsABoundedQueue :
    (State.reset.Inv ∧ ∃ t, exec (.enq 0x41#8) State.reset = .next t) ∧
    ((shifting 0).Inv ∧ (queuedBytes (shifting 0)).length < 16 ∧ ∃ t, exec (.enq 0x41#8) (shifting 0) = .next t) ∧
    ((queued 3 [(4, 0x77#8)] 4 4).Inv ∧ ¬ (queuedBytes (queued 3 [(4, 0x77#8)] 4 4)).length < 16 ∧
      ∃ t, exec (.enq 0x41#8) (queued 3 [(4, 0x77#8)] 4 4) = .next t) ∧
    ((shifting 9).Inv ∧ queuedBytes (shifting 9) = [] ∧ ∃ t, exec .txtick (shifting 9) = .next t) ∧
    ((queued 9 [(0, 0xA5#8), (15, 0x5A#8)] 15 1).Inv ∧
      queuedBytes (queued 9 [(0, 0xA5#8), (15, 0x5A#8)] 15 1) = [0x5A#8, 0xA5#8] ∧
      ∃ t, exec .txtick (queued 9 [(0, 0xA5#8), (15, 0x5A#8)] 15 1) = .next t) ∧
    ((receiving 9).Inv ∧ ∃ t, exec (.rxtick mark) (receiving 9) = .next t) :=
  ⟨⟨reset_inv, _, rfl⟩, ⟨inv_of_lawful shifting_start_lawful rfl, by decide, _, rfl⟩,
    ⟨inv_of_lawful full_lawful rfl, by decide, _, rfl⟩, ⟨inv_of_lawful shifting_lawful rfl, by decide, _, rfl⟩,
    ⟨inv_of_lawful queued_lawful rfl, by decide, _, rfl⟩, inv_of_lawful receiving_lawful rfl, _, rfl⟩

theorem witness_AnIdleTransmitterSendsTheWholeFrame :
    State.reset.Inv ∧ State.reset.Running ∧ State.reset.txActive = false := ⟨reset_inv, reset_running, rfl⟩

/-- X2's samples. -/
theorem witness_AReceivedFrameIsDeliveredOnce :
    State.reset.Running ∧ State.reset.rxActive = false ∧
    [true, false, false, false, false, false, true, false, true].length + 1 = frameLen State.reset.fd ∧
    8 < [true, false, false, false, false, false, true, false, true].length :=
  ⟨reset_running, by decide⟩

theorem witness_HeldLowAndGlitchedLinesDeliverAsTheRulesSay : (configured 0x7794#16).Running ∧ (configured 0x7794#16).rxActive = false :=
  ⟨⟨rfl, rfl⟩, rfl⟩

theorem witness_LoopbackDeliversEveryByte :
    State.reset.Inv ∧ State.reset.started = true ∧ State.reset.Quiescent ∧ 9 < frameLen State.reset.fd :=
  ⟨reset_inv, rfl, reset_quiescent, by decide⟩

/-- The bytes of P5 while Shifting, those of P2 from Idle. -/
theorem witness_SaturationDropsExactlyTheByteBeyondCapacity :
    ((shifting 0).Inv ∧ (shifting 0).Running ∧ (shifting 0).txActive = true ∧ (shifting 0).empty = true) ∧
    (State.reset.Inv ∧ State.reset.Running ∧ State.reset.txActive = false) ∧
    ((List.range 16).map fun n => BitVec.ofNat 8 (0x80 + n)).length = 16 :=
  ⟨⟨inv_of_lawful shifting_start_lawful rfl, shifting_running 0, rfl, rfl⟩, ⟨reset_inv, reset_running, rfl⟩, by decide⟩

theorem witness_TheQueueDrainsInBoundedTicks :
    (queued 3 [(4, 0x77#8)] 4 4).Inv ∧ (queued 3 [(4, 0x77#8)] 4 4).Running ∧ (queued 3 [(4, 0x77#8)] 4 4).txActive = true :=
  ⟨inv_of_lawful full_lawful rfl, queued_running .., rfl⟩

end Sys2Proof.Tests
end

section

namespace Sys2Proof.Machine

/-- A command word that decodes asks for its instruction (30_encoding.md R57). -/
theorem action_command_of_decode {w : Word} {i : Instr} (h : decode w = .ok i) :
    (Input.command w).action = .run i := by
  simp [Input.action, commandAction, h]

/-- The step of the command form: whatever the state, it is `exec` of the decoded instruction with the input taken. -/
theorem step_of_command {s : State} {w : Word} {rest : List Input} {i : Instr}
    (hp : s.pending = .command w :: rest) (hd : decode w = .ok i) :
    step s = exec i (taken s rest) := by
  rw [step_of_input hp, action_command_of_decode hd, perform]

/-- Settles O41: the command form by `step_of_command`, the absence of an input by `step_of_nothing`. -/
theorem stepRunsTheDecodedInstruction : Obligations.StepRunsTheDecodedInstruction :=
  ⟨fun _ _ _ _ => step_of_command, fun _ => step_of_nothing⟩

end Sys2Proof.Machine
end

section

namespace Sys2Proof.Machine

/-! ### Frames that the formatter built -/

/-- The formatter reads a byte only in the data bits that are sent (30_encoding.md R70). -/
theorem buildFrame_congr (fd : FrameDescriptor) {b c : Byte}
    (h : ∀ i < dataCount fd.dataBits, b.getLsbD i = c.getLsbD i) : buildFrame fd b = buildFrame fd c := by
  apply BitVec.eq_of_getLsbD_eq
  intro i hi
  rw [buildFrame_getLsbD fd b hi, buildFrame_getLsbD fd c hi]
  unfold frameLevel
  rw [parityBit_congr fd h]
  by_cases h0 : i = 0
  · simp [h0]
  · by_cases hd : i ≤ dataCount fd.dataBits
    · simp [h0, hd, h (i - 1) (by omega)]
    · simp [h0, hd]

/-- The data field of a built frame holds the bits that were sent. -/
theorem frameData_buildFrame_getLsbD (fd : FrameDescriptor) (b : Byte) {i : Nat} (h : i < dataCount fd.dataBits) :
    (frameData fd (buildFrame fd b)).getLsbD i = b.getLsbD i := by
  have hd := dataCount_bounds fd.dataBits
  rw [frameData_getLsbD fd _ (by omega), buildFrame_getLsbD fd b (by omega)]
  simp [frameLevel, h, show 1 + i ≤ dataCount fd.dataBits by omega]

/-- A built frame is the one built from its own data field. -/
theorem buildFrame_frameData_buildFrame (fd : FrameDescriptor) (b : Byte) :
    buildFrame fd (frameData fd (buildFrame fd b)) = buildFrame fd b :=
  buildFrame_congr fd fun _ => frameData_buildFrame_getLsbD fd b

/-- From the first stop position on a frame is at mark (30_encoding.md R66). -/
theorem frameLevel_of_stop (fd : FrameDescriptor) (b : Byte) {i : Nat} (h : firstStop fd ≤ i) :
    frameLevel fd b i = mark := by
  have h1 := startTicks_eq fd.startBits
  have hfs : firstStop fd = startTicks fd.startBits + dataCount fd.dataBits + parityTicks fd.parity := rfl
  have h0 : i ≠ 0 := by omega
  have hd : ¬ i ≤ dataCount fd.dataBits := by omega
  unfold frameLevel
  rw [if_neg h0, if_neg hd]
  split
  · next hi =>
    have hp : parityBit fd b = none := by
      rw [← Option.not_isSome_iff_eq_none, parityBit_isSome]
      simp only [decide_eq_true_eq]
      omega
    rw [hp, Option.getD_none]
  · rfl

/-- The last level of a built frame is a stop bit. -/
theorem buildFrame_last (fd : FrameDescriptor) (b : Byte) {i : Nat} (h : i + 1 = frameLen fd) :
    (buildFrame fd b).getLsbD i = mark := by
  have hl := frameLen_bounds fd
  have hs := stopTicks_bounds fd.stopBits
  have hfl : frameLen fd = firstStop fd + stopTicks fd.stopBits := rfl
  rw [buildFrame_getLsbD fd b (by omega), frameLevel_of_stop fd b (by omega)]

theorem one_lt_frameLen (fd : FrameDescriptor) : 1 < frameLen fd := by
  have := frameLen_bounds fd
  omega

/-! ### What each operation writes -/

/-- TXTICK writes only the transmit side, the line, `head` and the flag (41_transmit.md R97, R98). -/
theorem txTick_writes (s : State) : txTick s = { s with
    head := (txTick s).head, empty := (txTick s).empty, txActive := (txTick s).txActive
    txFrame := (txTick s).txFrame, txPos := (txTick s).txPos, txOut := (txTick s).txOut } := by
  rcases txTick_cases s with ⟨-, e⟩ | ⟨-, -, e⟩ | ⟨-, -, -, e⟩ | ⟨-, -, -, e⟩ <;> rw [e] <;> rfl

/-- RXTICK writes only the receive side, the holding register and the Deliver events (42_receive.md R107 to R110). -/
theorem rxTick_writes (v : Level) (s : State) : rxTick v s = { s with
    rxActive := (rxTick v s).rxActive, rxFrame := (rxTick v s).rxFrame, rxPos := (rxTick v s).rxPos
    rxData := (rxTick v s).rxData, rxStatus := (rxTick v s).rxStatus, delivered := (rxTick v s).delivered } := by
  rcases rxTick_cases v s with ⟨-, -, e⟩ | ⟨-, -, e⟩ | ⟨-, -, e⟩ | ⟨-, -, e⟩ <;> rw [e] <;> rfl

/-- ENQ writes only the FIFO, the frame it loads and the OverrunDiag events (41_transmit.md R93 to R95). -/
theorem enqueue_writes (b : Byte) (s : State) : enqueue b s = { s with
    fifo := (enqueue b s).fifo, tail := (enqueue b s).tail, empty := (enqueue b s).empty
    txActive := (enqueue b s).txActive, txFrame := (enqueue b s).txFrame, txPos := (enqueue b s).txPos
    overruns := (enqueue b s).overruns } := by
  rcases enqueue_cases b s with ⟨-, -, e⟩ | ⟨-, -, e⟩ | ⟨-, -, e⟩ <;> rw [e] <;> rfl

variable {s t : State}

/-- No operation takes an input that is still to come. -/
theorem exec_pending {i : Instr} (h : exec i s = .next t) : t.pending = s.pending := by
  obtain ⟨-, ⟨w, -, -, rfl⟩ | ⟨w, -, -, rfl⟩ | ⟨b, -, -, rfl⟩ | ⟨b, -, -, -, rfl⟩ | ⟨-, rfl⟩ | ⟨v, -, rfl⟩⟩ := exec_next h
  · rfl
  · rfl
  · rw [enqueue_writes]
  · rfl
  · rw [txTick_writes]
  · rw [rxTick_writes]

/-! ### Every operation keeps the state lawful -/

/-- CFG with a valid word leaves a lawful state, whatever the state was (40_configuration.md R81). -/
theorem configure_lawful {w : ConfigWord} (hw : validConfig w = true) (s : State) : (configure w s).Lawful where
  memory := memClear_wf
  indices := ⟨slot_lt_capacity _, slot_lt_capacity _⟩
  emptyFlag _ := rfl
  idleEmpty _ := rfl
  idlePos _ := rfl
  shiftPos := nofun
  listenPos _ := rfl
  sampling := nofun
  config := hw
  idleLine _ := rfl
  built := nofun

theorem validConfig_cfgReset : validConfig Config.cfgReset = true := by decide

theorem applyReset_lawful (s : State) : (applyReset s).Lawful :=
  { configure_lawful validConfig_cfgReset (clearFault s) with }

theorem applyReset_running (s : State) : (applyReset s).Running := ⟨rfl, rfl⟩

/-- The inputs to come and the counter of the free values are no part of being lawful. -/
theorem taken_lawful (h : s.Lawful) (rest : List Input) : (taken s rest).Lawful := { h with }

/-- Recording a fault keeps the state lawful (60_exceptions.md R126). -/
theorem withFault_lawful (h : s.Lawful) (f : Option Fault) : ({ s with fault := f } : State).Lawful := { h with }

/-- A restore writes every element that being lawful speaks of, so the state it is applied to does not count. -/
theorem restoreState_lawful {c : Checkpoint} {o : Omitted} (h : (Input.restore c o).Lawful) (s : State) :
    (restoreState c o s).Lawful := { (h : (restoreState c o State.reset).Lawful) with }

theorem txLoad_lawful (h : s.Lawful) (b : Byte) : (txLoad b s).Lawful :=
  { h with
    idleEmpty := nofun
    idlePos := nofun
    shiftPos := fun _ => Nat.zero_lt_of_lt (one_lt_frameLen s.fd)
    idleLine := nofun
    built := fun _ => buildFrame_frameData_buildFrame s.fd b }

/-- Appending is lawful only while Shifting: an Idle transmitter has nothing queued (10_state.md R36, I4). -/
theorem append_lawful (h : s.Lawful) (b : Byte) (ha : s.txActive = true) : (append b s).Lawful :=
  { h with
    memory := memWrite_wf h.memory s.tail b
    indices := ⟨slot_lt_capacity _, slot_lt_capacity _⟩
    emptyFlag := nofun
    idleEmpty := fun hi => Bool.noConfusion (ha.symm.trans hi) }

theorem enqueue_lawful (h : s.Lawful) (b : Byte) : (enqueue b s).Lawful := by
  rcases enqueue_cases b s with ⟨-, -, e⟩ | ⟨hn, -, e⟩ | ⟨-, -, e⟩ <;> rw [e]
  · exact txLoad_lawful h b
  · refine append_lawful h b ?_
    rw [← Bool.not_eq_false]
    exact fun ha => hn ⟨h.idleEmpty ha, ha⟩
  · exact { h with }

/-- While Shifting the position counter moves on by one, inside the frame's register. -/
theorem State.Lawful.nextPosition_txPos (h : s.Lawful) (ha : s.txActive = true) :
    s.txPos.toNat < 12 ∧ (nextPosition s.draws s.txPos).toNat = s.txPos.toNat + 1 := by
  have hp := h.shiftPos ha
  have hl := frameLen_bounds s.fd
  exact ⟨by omega, nextPosition_toNat _ (by omega)⟩

/-- While Sampling the position counter moves on by one, inside the frame's register. -/
theorem State.Lawful.nextPosition_rxPos (h : s.Lawful) (ha : s.rxActive = true) :
    s.rxPos.toNat < 12 ∧ (nextPosition s.draws s.rxPos).toNat = s.rxPos.toNat + 1 := by
  obtain ⟨-, hp, -⟩ := h.sampling ha
  have hl := frameLen_bounds s.fd
  exact ⟨by omega, nextPosition_toNat _ (by omega)⟩

/-- The tick that completes a frame drives its last stop bit (41_transmit.md R97). -/
theorem shiftOut_last (h : s.Lawful) (ha : s.txActive = true)
    (hl : (nextPosition s.draws s.txPos).toNat = frameLen s.fd) : (shiftOut s).txOut = mark := by
  obtain ⟨hp, hn⟩ := h.nextPosition_txPos ha
  rw [shiftOut_txOut, levelAt_eq _ _ hp, ← h.built ha]
  exact buildFrame_last s.fd _ (hn ▸ hl)

theorem txTick_lawful (h : s.Lawful) : (txTick s).Lawful := by
  rcases txTick_cases s with ⟨-, e⟩ | ⟨ha, hl, e⟩ | ⟨ha, hl, -, e⟩ | ⟨ha, hl, he, e⟩ <;> rw [e]
  · exact h
  · have hp := h.shiftPos ha
    obtain ⟨-, hn⟩ := h.nextPosition_txPos ha
    have hlt : (nextPosition s.draws s.txPos).toNat < frameLen s.fd := by omega
    exact { h with
      idlePos := fun hi => Bool.noConfusion (ha.symm.trans hi)
      shiftPos := fun _ => hlt
      idleLine := fun hi => Bool.noConfusion (ha.symm.trans hi) }
  · exact { h with
      indices := ⟨slot_lt_capacity _, slot_lt_capacity _⟩
      emptyFlag := fun hm => eq_of_beq hm
      idleEmpty := nofun
      idlePos := nofun
      shiftPos := fun _ => Nat.zero_lt_of_lt (one_lt_frameLen s.fd)
      idleLine := nofun
      built := fun _ => buildFrame_frameData_buildFrame s.fd _ }
  · exact { h with
      idleEmpty := fun _ => he
      idlePos := fun _ => rfl
      shiftPos := nofun
      idleLine := fun _ => shiftOut_last h ha hl
      built := nofun }

/-- A detected frame begins with the 0 that was sampled (42_receive.md R108). -/
theorem startFrame_startBit : (startFrame s).rxFrame.getLsbD 0 = space := by
  rw [startFrame_rxFrame]
  decide

theorem rxTick_lawful (h : s.Lawful) (v : Level) : (rxTick v s).Lawful := by
  rcases rxTick_cases v s with ⟨-, -, e⟩ | ⟨-, -, e⟩ | ⟨ha, hl, e⟩ | ⟨ha, hl, e⟩ <;> rw [e]
  · exact h
  · exact { h with
      listenPos := nofun
      sampling := fun _ => ⟨Nat.le_refl 1, one_lt_frameLen s.fd, startFrame_startBit⟩ }
  · obtain ⟨h1, hp, h0⟩ := h.sampling ha
    obtain ⟨h12, hn⟩ := h.nextPosition_rxPos ha
    have hpos : 1 ≤ (nextPosition s.draws s.rxPos).toNat ∧ (nextPosition s.draws s.rxPos).toNat < frameLen s.fd := by omega
    have hstart : (sampleAt s.draws s.rxFrame s.rxPos v).getLsbD 0 = space := by
      rw [sampleAt_eq _ _ _ h12, setLevel_getLsbD _ _ _ (by decide), if_neg (by omega), h0]
    exact { h with
      listenPos := fun hi => Bool.noConfusion (ha.symm.trans hi)
      sampling := fun _ => ⟨hpos.1, hpos.2, hstart⟩ }
  · exact { h with
      listenPos := fun _ => rfl
      sampling := nofun }

theorem exec_lawful (h : s.Lawful) {i : Instr} (hx : exec i s = .next t) : t.Lawful := by
  obtain ⟨-, ⟨w, -, hw, rfl⟩ | ⟨w, -, -, rfl⟩ | ⟨b, -, -, rfl⟩ | ⟨b, -, -, -, rfl⟩ | ⟨-, rfl⟩ | ⟨v, -, rfl⟩⟩ := exec_next hx
  · exact configure_lawful hw s
  · exact withFault_lawful h _
  · exact enqueue_lawful h b
  · exact withFault_lawful h _
  · exact txTick_lawful h
  · exact rxTick_lawful h v

theorem applyReset_inv (h : ∀ x ∈ s.pending, x.Lawful) : (applyReset s).Inv := ⟨applyReset_lawful s, h⟩

/-- The inputs after the first are still lawful once it is taken. -/
theorem State.Inv.taken {x : Input} {rest : List Input} (h : s.Inv) (hp : s.pending = x :: rest) : (taken s rest).Inv where
  lawful := taken_lawful h.lawful rest
  pending y hy := h.pending y (by rw [hp]; exact List.mem_cons_of_mem x hy)

/-- Settles O47: each of the five things a step can do keeps the state lawful, and none adds to the inputs to come. -/
theorem everyStepKeepsTheInvariant : Obligations.EveryStepKeepsTheInvariant := by
  intro s t h hs
  rcases step_next hs with ⟨-, rfl⟩ | ⟨x, rest, hp, hx⟩
  · exact h
  · have hi := h.taken hp
    rcases hx with ⟨-, rfl⟩ | ⟨-, rfl⟩ | ⟨i, -, hx⟩ | ⟨c, o, rfl, -, rfl⟩
    · exact hi
    · exact applyReset_inv hi.pending
    · exact ⟨exec_lawful hi.lawful hx, fun y hy => hi.pending y (exec_pending hx ▸ hy)⟩
    · exact ⟨restoreState_lawful (h.pending _ (by rw [hp]; exact List.mem_cons_self)) _, hi.pending⟩

/-- RESET on the reset state changes nothing (10_state.md R38). -/
theorem applyReset_reset : applyReset State.reset = State.reset := rfl

theorem reset_quiescent : State.reset.Quiescent := ⟨rfl, rfl, rfl, rfl⟩

/-- Settles O3: the reset state is what RESET leaves from itself, and RESET leaves a lawful running state from anywhere. -/
theorem resetEstablishesTheInvariant : Obligations.ResetEstablishesTheInvariant :=
  ⟨applyReset_reset ▸ applyReset_inv nofun, applyReset_running State.reset, reset_quiescent, ⟨reset_quiescent, nofun⟩,
    fun s h => ⟨applyReset_inv h, applyReset_running s⟩⟩

/-! ### Configuration, control lines and the transmit line -/

/-- TXTICK leaves the line alone unless it is Shifting (41_transmit.md R99). -/
theorem txActive_of_txTick_txOut (h : (txTick s).txOut ≠ s.txOut) : s.txActive = true := by
  rw [← Bool.not_eq_false]
  exact fun ha => h (by rw [txTick_idle ha])

theorem exec_cfg_and_lines {i : Instr} (h : exec i s = .next t) :
    (t.cfg = s.cfg ∧ t.dcd = s.dcd ∧ t.dsr = s.dsr ∧ t.cts = s.cts) ∨
      ∃ w, i = .cfg w ∧ validConfig w = true ∧ t = configure w s := by
  obtain ⟨-, ⟨w, rfl, hw, rfl⟩ | ⟨w, -, -, rfl⟩ | ⟨b, -, -, rfl⟩ | ⟨b, -, -, -, rfl⟩ | ⟨-, rfl⟩ | ⟨v, -, rfl⟩⟩ := exec_next h
  · exact .inr ⟨w, rfl, hw, rfl⟩
  · exact .inl ⟨rfl, rfl, rfl, rfl⟩
  · rw [enqueue_writes]; exact .inl ⟨rfl, rfl, rfl, rfl⟩
  · exact .inl ⟨rfl, rfl, rfl, rfl⟩
  · rw [txTick_writes]; exact .inl ⟨rfl, rfl, rfl, rfl⟩
  · rw [rxTick_writes]; exact .inl ⟨rfl, rfl, rfl, rfl⟩

theorem exec_txOut {i : Instr} (h : exec i s = .next t) :
    t.txOut = s.txOut ∨ (∃ w, i = .cfg w ∧ t.txOut = mark) ∨ (i = .txtick ∧ t = txTick s) := by
  obtain ⟨-, ⟨w, rfl, -, rfl⟩ | ⟨w, -, -, rfl⟩ | ⟨b, -, -, rfl⟩ | ⟨b, -, -, -, rfl⟩ | ⟨rfl, rfl⟩ | ⟨v, -, rfl⟩⟩ := exec_next h
  · exact .inr (.inl ⟨w, rfl, rfl⟩)
  · exact .inl rfl
  · rw [enqueue_writes]; exact .inl rfl
  · exact .inl rfl
  · exact .inr (.inr ⟨rfl, rfl⟩)
  · rw [rxTick_writes]; exact .inl rfl

/-- Settles O35: by what each operation writes, and because an Idle TXTICK drives nothing. -/
theorem onlyCfgWritesConfigurationAndControlLines : Obligations.OnlyCfgWritesConfigurationAndControlLines := by
  intro s t i h
  constructor
  · intro hne
    rcases exec_cfg_and_lines h with ⟨hcfg, hdcd, hdsr, hcts⟩ | ⟨w, hi, hw, rfl⟩
    · exact absurd hne (by simp [hcfg, hdcd, hdsr, hcts])
    · exact ⟨w, hi, hw, rfl, rfl, rfl, rfl⟩
  · intro hne
    rcases exec_txOut h with hsame | hcfg | ⟨hi, rfl⟩
    · exact absurd hsame hne
    · exact .inl hcfg
    · exact .inr ⟨hi, txActive_of_txTick_txOut hne⟩

/-! ### Events and their pulses -/

/-- `deliver_valid` is the pulse of the events appended (10_state.md R35). -/
theorem outputs_deliverValid_of_append {ds : List Delivery} (h : t.delivered = s.delivered ++ ds) :
    (outputs s t).deliverValid = !ds.isEmpty := by
  cases ds <;> simp [outputs, h]

/-- `overrun_byte` is the first of the events appended (10_state.md R35). -/
theorem outputs_overrun_of_append {os : List Byte} (h : t.overruns = s.overruns ++ os) :
    (outputs s t).overrun = os.head? := by
  simp [outputs, h]

/-- RXTICK records nothing, or the one Deliver that it also puts into the holding register (42_receive.md R110). -/
theorem rxTick_delivered (v : Level) (s : State) :
    (rxTick v s).delivered = s.delivered ∨
      (rxTick v s).delivered = s.delivered ++ [⟨(rxTick v s).rxData, (rxTick v s).rxStatus⟩] := by
  rcases rxTick_cases v s with ⟨-, -, e⟩ | ⟨-, -, e⟩ | ⟨-, -, e⟩ | ⟨-, -, e⟩ <;> rw [e]
  · exact .inl rfl
  · exact .inl rfl
  · exact .inl rfl
  · exact .inr rfl

/-- ENQ records nothing, or an OverrunDiag with its byte (41_transmit.md R95). -/
theorem enqueue_overruns (b : Byte) (s : State) :
    (enqueue b s).overruns = s.overruns ∨ (enqueue b s).overruns = s.overruns ++ [b] := by
  rcases enqueue_cases b s with ⟨-, -, e⟩ | ⟨-, -, e⟩ | ⟨-, -, e⟩ <;> rw [e]
  · exact .inl rfl
  · exact .inl rfl
  · exact .inr rfl

/-- An operation records no event, one Deliver by RXTICK or one OverrunDiag by ENQ. -/
theorem exec_events {i : Instr} (h : exec i s = .next t) :
    (t.delivered = s.delivered ∧ t.overruns = s.overruns) ∨
    (∃ v, i = .rxtick v ∧ t.delivered = s.delivered ++ [⟨t.rxData, t.rxStatus⟩] ∧ t.overruns = s.overruns) ∨
    ∃ b, i = .enq b ∧ t.overruns = s.overruns ++ [b] ∧ t.delivered = s.delivered := by
  obtain ⟨-, ⟨w, -, -, rfl⟩ | ⟨w, -, -, rfl⟩ | ⟨b, rfl, -, rfl⟩ | ⟨b, -, -, -, rfl⟩ | ⟨-, rfl⟩ | ⟨v, rfl, rfl⟩⟩ := exec_next h
  · exact .inl ⟨rfl, rfl⟩
  · exact .inl ⟨rfl, rfl⟩
  · have hd := congrArg State.delivered (enqueue_writes b s)
    exact (enqueue_overruns b s).imp (fun ho => ⟨hd, ho⟩) (fun ho => .inr ⟨b, rfl, ho, hd⟩)
  · exact .inl ⟨rfl, rfl⟩
  · rw [txTick_writes]; exact .inl ⟨rfl, rfl⟩
  · have ho := congrArg State.overruns (rxTick_writes v s)
    exact (rxTick_delivered v s).imp (fun hd => ⟨hd, ho⟩) (fun hd => .inl ⟨v, rfl, hd, ho⟩)

/-- Settles O36: the events by `exec_events`, the pulse of each by the lemmas on appended events. -/
theorem eachOperationProducesAtMostOneEvent : Obligations.EachOperationProducesAtMostOneEvent := by
  intro s t i h
  refine ⟨⟨rfl, rfl⟩, ?_⟩
  rcases exec_events h with ⟨hd, ho⟩ | ⟨v, hi, hd, ho⟩ | ⟨b, hi, ho, hd⟩
  · exact .inl ⟨hd, ho, outputs_of_no_event hd ho⟩
  · exact .inr (.inl ⟨v, hi, hd, ho, outputs_deliverValid_of_append hd,
      outputs_overrun_of_append (ho.trans (List.append_nil _).symm)⟩)
  · exact .inr (.inr ⟨b, hi, ho, hd, outputs_deliverValid_of_append (hd.trans (List.append_nil _).symm),
      outputs_overrun_of_append ho⟩)

/-! ### What no operation reads -/

/-- `s` with the holding register, the control lines and the recorded events of `r`. -/
def State.withBehind (s r : State) : State :=
  { s with rxData := r.rxData, rxStatus := r.rxStatus, dcd := r.dcd, dsr := r.dsr, cts := r.cts
           delivered := r.delivered, overruns := r.overruns }

theorem agreesBehind_iff (s r : State) : s.agreesBehind r ↔ r = s.withBehind r := Iff.rfl

/-- The steps from `s` to `t` and from `s'` to `t'` leave agreeing states and record the same events. -/
def SameEffect (s s' t t' : State) : Prop :=
  t.agreesBehind t' ∧ ∃ ds os, t.delivered = s.delivered ++ ds ∧ t'.delivered = s'.delivered ++ ds ∧
    t.overruns = s.overruns ++ os ∧ t'.overruns = s'.overruns ++ os

/-- The answers to one operation from `s` and from `s'` are alike. -/
def AnswersAlike (s s' : State) : Result → Result → Prop
  | .next t, .next t' => SameEffect s s' t t'
  | .fault k, .fault k' => k = k'
  | .refused r, .refused r' => r = r'
  | _, _ => False

theorem AnswersAlike.of_fault {s' : State} {k : Fault} {q : Result} (h : AnswersAlike s s' (.fault k) q) :
    q = .fault k := by
  cases q with
  | next _ => exact h.elim
  | fault _ => exact congrArg _ (Eq.symm h)
  | refused _ => exact h.elim

theorem AnswersAlike.of_refused {s' : State} {r : Refusal} {q : Result} (h : AnswersAlike s s' (.refused r) q) :
    q = .refused r := by
  cases q with
  | next _ => exact h.elim
  | fault _ => exact h.elim
  | refused _ => exact congrArg _ (Eq.symm h)

theorem AnswersAlike.of_next {s' : State} {q : Result} (h : AnswersAlike s s' (.next t) q) :
    ∃ t', q = .next t' ∧ SameEffect s s' t t' := by
  cases q with
  | next t' => exact ⟨t', rfl, h⟩
  | fault _ => exact h.elim
  | refused _ => exact h.elim

/-- Agreeing states without a new event. -/
theorem SameEffect.of_no_event {s' t' : State} (h : t.agreesBehind t')
    (hd : t.delivered = s.delivered) (hd' : t'.delivered = s'.delivered)
    (ho : t.overruns = s.overruns) (ho' : t'.overruns = s'.overruns) : SameEffect s s' t t' :=
  ⟨h, [], [], by simp [hd], by simp [hd'], by simp [ho], by simp [ho']⟩

theorem configure_sameEffect (w : ConfigWord) (s r : State) :
    SameEffect s (s.withBehind r) (configure w s) (configure w (s.withBehind r)) :=
  .of_no_event rfl rfl rfl rfl rfl

theorem withFault_sameEffect (k : Fault) (s r : State) :
    SameEffect s (s.withBehind r) { s with fault := some k } { s.withBehind r with fault := some k } :=
  .of_no_event rfl rfl rfl rfl rfl

theorem enqueue_sameEffect (b : Byte) (s r : State) :
    SameEffect s (s.withBehind r) (enqueue b s) (enqueue b (s.withBehind r)) := by
  have hb : enqBypasses (s.withBehind r) = enqBypasses s := rfl
  have ha : enqAppends (s.withBehind r) = enqAppends s := rfl
  unfold enqueue
  rw [hb, ha]
  split
  · exact .of_no_event rfl rfl rfl rfl rfl
  · split
    · exact .of_no_event rfl rfl rfl rfl rfl
    · exact ⟨rfl, [], [b], by simp, by simp, rfl, rfl⟩

theorem txDone_sameEffect (s r : State) : SameEffect s (s.withBehind r) (txDone s) (txDone (s.withBehind r)) := by
  have he : (s.withBehind r).empty = s.empty := rfl
  unfold txDone
  rw [he]
  split <;> exact .of_no_event rfl rfl rfl rfl rfl

theorem txTick_sameEffect (s r : State) : SameEffect s (s.withBehind r) (txTick s) (txTick (s.withBehind r)) := by
  have ha : (s.withBehind r).txActive = s.txActive := rfl
  have hb : shiftOut (s.withBehind r) = (shiftOut s).withBehind r := rfl
  have hp : ((shiftOut s).withBehind r).txPos = (shiftOut s).txPos := rfl
  have hfd : (s.withBehind r).fd = s.fd := rfl
  unfold txTick
  rw [ha, hb, hp, hfd]
  split
  · split
    · exact txDone_sameEffect (shiftOut s) r
    · exact .of_no_event rfl rfl rfl rfl rfl
  · exact .of_no_event rfl rfl rfl rfl rfl

theorem rxTick_sameEffect (v : Level) (s r : State) :
    SameEffect s (s.withBehind r) (rxTick v s) (rxTick v (s.withBehind r)) := by
  have ha : (s.withBehind r).rxActive = s.rxActive := rfl
  have hb : shiftIn v (s.withBehind r) = (shiftIn v s).withBehind r := rfl
  have hp : ((shiftIn v s).withBehind r).rxPos = (shiftIn v s).rxPos := rfl
  have hfd : (s.withBehind r).fd = s.fd := rfl
  unfold rxTick
  rw [ha, hb, hp, hfd]
  split
  · split
    · exact ⟨rfl, [extractFrame s.fd (shiftIn v s).rxFrame], [], rfl, rfl, (List.append_nil _).symm, (List.append_nil _).symm⟩
    · exact .of_no_event rfl rfl rfl rfl rfl
  · split <;> exact .of_no_event rfl rfl rfl rfl rfl

/-- Whether an operation runs depends on nothing that lies behind (60_exceptions.md R126, 70_reset_and_hazards.md R146). -/
theorem whenRunning_answersAlike {op : State → Result} {r : State}
    (h : AnswersAlike s (s.withBehind r) (op s) (op (s.withBehind r))) :
    AnswersAlike s (s.withBehind r) (whenRunning s op) (whenRunning (s.withBehind r) op) := by
  have hs : (s.withBehind r).started = s.started := rfl
  have hf : (s.withBehind r).fault = s.fault := rfl
  unfold whenRunning
  rw [hs, hf]
  split
  · split
    · exact h
    · rfl
  · rfl

/-- Every operation answers alike from states that differ only in what lies behind. -/
theorem exec_answersAlike (i : Instr) (s r : State) :
    AnswersAlike s (s.withBehind r) (exec i s) (exec i (s.withBehind r)) := by
  cases i with
  | cfg w =>
    apply whenRunning_answersAlike
    split
    · exact configure_sameEffect w s r
    · exact withFault_sameEffect .invalidSelection s r
  | enq b =>
    have hp : enqPrecondition (s.withBehind r) = enqPrecondition s := rfl
    apply whenRunning_answersAlike
    rw [hp]
    split
    · exact enqueue_sameEffect b s r
    · exact withFault_sameEffect .fifoInvariant s r
  | txtick => exact whenRunning_answersAlike (op := fun s => .next (txTick s)) (txTick_sameEffect s r)
  | rxtick v => exact whenRunning_answersAlike (op := fun s => .next (rxTick v s)) (rxTick_sameEffect v s r)

/-- Steps with the same effect show the same on every port but those of the holding register and of the control lines. -/
theorem SameEffect.outputs_eq {s' t' : State} (h : SameEffect s s' t t') : outputs s' t' = { outputs s t with
    rxData := t'.rxData, rxStatus := t'.rxStatus, dcd := t'.dcd, dsr := t'.dsr, cts := t'.cts } := by
  obtain ⟨hag, ds, os, hd, hd', ho, ho'⟩ := h
  have hcfg : t'.cfg = t.cfg := by rw [(agreesBehind_iff t t').mp hag, State.withBehind]
  have hout : t'.txOut = t.txOut := by rw [(agreesBehind_iff t t').mp hag, State.withBehind]
  have hv := (outputs_deliverValid_of_append hd').trans (outputs_deliverValid_of_append hd).symm
  have hb := (outputs_overrun_of_append ho').trans (outputs_overrun_of_append ho).symm
  exact (Outputs.mk.injEq ..).mpr
    ⟨hout, rfl, rfl, rfl, congrArg txRateOf hcfg, congrArg rxRateOf hcfg, hv, rfl, rfl, hb⟩

/-- Settles O38: every operation answers alike, and the ports follow from the effect. -/
theorem noOperationReadsTheHoldingRegister : Obligations.NoOperationReadsTheHoldingRegister := by
  intro s s' i hag
  have h := exec_answersAlike i s s'
  rw [← (agreesBehind_iff s s').mp hag] at h
  refine ⟨fun k hk => (hk ▸ h).of_fault, fun r hr => (hr ▸ h).of_refused, fun t ht => ?_⟩
  obtain ⟨t', ht', he⟩ := (ht ▸ h).of_next
  exact ⟨t', ht', he.1, he.2, he.outputs_eq⟩

/-! ### Checkpoint and restore -/

/-- A checkpoint restored with the omitted elements kept gives back the state (70_reset_and_hazards.md R154). -/
theorem restoreState_saveCheckpoint (h : s.fifo.wf = true) : restoreState (saveCheckpoint s) (omittedOf s) s = s := by
  have hm : (saveCheckpoint s).fifo = slotsOf s.fifo := rfl
  unfold restoreState
  rw [hm, memoryOf_slotsOf h]
  rfl

theorem saveCheckpoint_restoreState (c : Checkpoint) (o : Omitted) (s : State) :
    saveCheckpoint (restoreState c o s) = c := by
  unfold saveCheckpoint
  rw [restoreState_fifo, slotsOf_memoryOf]
  rfl

theorem omittedOf_restoreState (c : Checkpoint) (o : Omitted) (s : State) : omittedOf (restoreState c o s) = o := rfl

theorem applyRestore_of_started (hs : s.started = true) (c : Checkpoint) (o : Omitted) :
    applyRestore c o s = .next (restoreState c o s) := if_pos hs

/-- Settles O48: saving and restoring are inverse to each other, and a restore writes all that being lawful speaks of. -/
theorem restoreResumesFromACheckpoint : Obligations.RestoreResumesFromACheckpoint :=
  ⟨fun _ => restoreState_saveCheckpoint, fun s c o hs => ⟨restoreState c o s, applyRestore_of_started hs c o,
    saveCheckpoint_restoreState c o s, omittedOf_restoreState c o s, rfl, rfl, fun hl => restoreState_lawful hl s⟩⟩

end Sys2Proof.Machine
end

section

namespace Sys2Proof.Machine

variable {s t : State}

/-! ### The number of queued bytes -/

theorem nextIndex_toNat (i : SlotIndex) : (nextIndex i).toNat = (i.toNat + 1) % 16 := by
  rw [nextIndex_eq, BitVec.toNat_add]
  rfl

theorem fifoCount_of_empty (he : s.empty = true) : fifoCount s = 0 := if_pos he

theorem queuedBytes_of_empty (he : s.empty = true) : queuedBytes s = [] := by
  rw [queuedBytes, fifoCount_of_empty he]
  rfl

theorem queuedBytes_length (s : State) : (queuedBytes s).length = fifoCount s := by
  simp [queuedBytes]

theorem fifoCount_le (s : State) : fifoCount s ≤ 16 := by
  unfold fifoCount Config.capacity
  split
  · omega
  · split <;> omega

/-- `Count` leads from `head` to `tail` around the ring and is 0 exactly when the flag says so (10_state.md R29, R30); with
`fifoCount_le` this determines it, the flag telling 0 from 16. -/
theorem fifoCount_spec (hp : s.empty = true → s.head = s.tail) :
    (s.head.toNat + fifoCount s) % 16 = s.tail.toNat ∧ (s.empty = true ↔ fifoCount s = 0) := by
  have hh := s.head.isLt
  have ht := s.tail.isLt
  cases he : s.empty with
  | true =>
    rw [fifoCount_of_empty he, hp he]
    exact ⟨Nat.mod_eq_of_lt ht, by simp⟩
  | false =>
    by_cases heq : s.head = s.tail
    · simp only [fifoCount, he, heq, Config.capacity, if_true, if_false, Bool.false_eq_true, false_iff]
      omega
    · have hne : s.head.toNat ≠ s.tail.toNat := fun h => heq (BitVec.eq_of_toNat_eq h)
      simp only [fifoCount, he, heq, Config.capacity, if_false, Bool.false_eq_true, false_iff]
      omega

/-- The FIFO is full exactly when the indices have met and the flag is down (10_state.md R29, I3). -/
theorem fifoCount_eq_iff_full (hp : s.empty = true → s.head = s.tail) :
    fifoCount s = 16 ↔ s.empty = false ∧ s.head = s.tail := by
  obtain ⟨hc, he⟩ := fifoCount_spec hp
  have hle := fifoCount_le s
  rw [← Bool.not_eq_true, he, ← BitVec.toNat_inj]
  omega

theorem fifoCount_append (hp : s.empty = true → s.head = s.tail) (hr : fifoCount s < 16) (b : Byte) :
    fifoCount (append b s) = fifoCount s + 1 := by
  obtain ⟨hc, -⟩ := fifoCount_spec hp
  obtain ⟨hc', he'⟩ := fifoCount_spec (s := append b s) nofun
  have hle' := fifoCount_le (append b s)
  have hne : fifoCount (append b s) ≠ 0 := fun h => Bool.noConfusion (he'.mpr h)
  rw [append_head, append_tail, nextIndex_toNat] at hc'
  omega

theorem fifoCount_dequeue (he : s.empty = false) : fifoCount s = fifoCount (dequeue s) + 1 := by
  obtain ⟨hc, hz⟩ := fifoCount_spec (s := s) fun h => Bool.noConfusion (he.symm.trans h)
  obtain ⟨hc', hz'⟩ := fifoCount_spec (s := dequeue s) fun h => eq_of_beq h
  have hle := fifoCount_le s
  have hle' := fifoCount_le (dequeue s)
  have hne : fifoCount s ≠ 0 := fun h => Bool.noConfusion (he.symm.trans (hz.mpr h))
  have hmet : fifoCount (dequeue s) = 0 ↔ (s.head.toNat + 1) % 16 = s.tail.toNat := by
    rw [← hz', dequeue_empty, beq_iff_eq, ← BitVec.toNat_inj, nextIndex_toNat]
  rw [dequeue_head, dequeue_tail, nextIndex_toNat] at hc'
  omega

/-! ### The queued bytes -/

/-- The queued bytes stand in the `Count` slots from `head` on. -/
theorem queuedBytes_eq (s : State) :
    queuedBytes s = (List.range (fifoCount s)).map fun k => memRead s.fifo (s.head + BitVec.ofNat 4 k) := by
  refine List.map_congr_left fun k _ => congrArg (memRead s.fifo) (BitVec.eq_of_toNat_eq ?_)
  simp [Config.capacity, BitVec.toNat_add]

/-- Only the slots, the indices and the flag make up the queue. -/
theorem queuedBytes_congr (hf : t.fifo = s.fifo) (hh : t.head = s.head) (ht : t.tail = s.tail) (he : t.empty = s.empty) :
    queuedBytes t = queuedBytes s := by
  simp only [queuedBytes, fifoCount, hf, hh, ht, he]

/-- Counting on from `head`, `tail` is the slot after the last queued byte. -/
theorem head_add_fifoCount (hp : s.empty = true → s.head = s.tail) : s.head + BitVec.ofNat 4 (fifoCount s) = s.tail := by
  obtain ⟨hc, -⟩ := fifoCount_spec hp
  apply BitVec.eq_of_toNat_eq
  simpa [BitVec.toNat_add] using hc

/-- While there is room no queued byte stands in the slot at `tail`. -/
theorem head_add_ne_tail (hp : s.empty = true → s.head = s.tail) (hr : fifoCount s < 16) {k : Nat} (hk : k < fifoCount s) :
    s.head + BitVec.ofNat 4 k ≠ s.tail := by
  rw [← head_add_fifoCount hp, Ne, BitVec.add_right_inj, ← BitVec.toNat_inj, BitVec.toNat_ofNat, BitVec.toNat_ofNat]
  omega

/-- The append branch of ENQ puts the byte last (41_transmit.md R94). -/
theorem queuedBytes_append (hm : s.fifo.wf = true) (hp : s.empty = true → s.head = s.tail) (hr : fifoCount s < 16)
    (b : Byte) : queuedBytes (append b s) = queuedBytes s ++ [b] := by
  have hlast : memRead (memWrite s.fifo s.tail b) (s.head + BitVec.ofNat 4 (fifoCount s)) = b := by
    rw [head_add_fifoCount hp, memRead_memWrite_same hm]
  have hrest : ∀ k ∈ List.range (fifoCount s), memRead (memWrite s.fifo s.tail b) (s.head + BitVec.ofNat 4 k) =
      memRead s.fifo (s.head + BitVec.ofNat 4 k) := fun k hk =>
    memRead_memWrite_other _ (head_add_ne_tail hp hr (List.mem_range.mp hk)) b
  rw [queuedBytes_eq, queuedBytes_eq, fifoCount_append hp hr, append_fifo, append_head, List.range_succ, List.map_append,
    List.map_congr_left hrest, List.map_singleton, hlast]

/-- The first queued byte stands at `head`, and the dequeue leaves the others (41_transmit.md R98). -/
theorem queuedBytes_of_queued (he : s.empty = false) :
    queuedBytes s = memRead s.fifo s.head :: queuedBytes (dequeue s) := by
  rw [queuedBytes_eq, queuedBytes_eq, fifoCount_dequeue he, List.range_succ_eq_map, List.map_cons, List.map_map]
  congr 1
  · simp
  · refine List.map_congr_left fun k _ => congrArg (memRead s.fifo) ?_
    rw [dequeue_head, nextIndex_eq, BitVec.add_assoc]
    congr 1
    apply BitVec.eq_of_toNat_eq
    simp [BitVec.toNat_add, Nat.add_comm]

theorem queuedBytes_eq_nil_iff (hp : s.empty = true → s.head = s.tail) : queuedBytes s = [] ↔ s.empty = true := by
  obtain ⟨-, he⟩ := fifoCount_spec hp
  rw [he, ← queuedBytes_length, List.length_eq_zero_iff]

/-! ### The operations on the queue -/

theorem enqueue_of_idle (he : s.empty = true) (ha : s.txActive = false) (b : Byte) : enqueue b s = txLoad b s := by
  simp [enqueue, enqBypasses, he, ha]

theorem enqueue_of_room (hp : s.empty = true → s.head = s.tail) (ha : s.txActive = true) (hr : fifoCount s < 16)
    (b : Byte) : enqueue b s = append b s := by
  rcases enqueue_cases b s with ⟨-, hi, -⟩ | ⟨-, -, e⟩ | ⟨he, ht, -⟩
  · exact Bool.noConfusion (ha.symm.trans hi)
  · exact e
  · exact absurd ((fifoCount_eq_iff_full hp).mpr ⟨he, ht⟩) (Nat.ne_of_lt hr)

theorem enqueue_of_full (he : s.empty = false) (ht : s.head = s.tail) (b : Byte) : enqueue b s = emitOverrun b s := by
  rcases enqueue_cases b s with ⟨h, -⟩ | ⟨-, h | h, -⟩ | ⟨-, -, e⟩
  · exact Bool.noConfusion (he.symm.trans h)
  · exact Bool.noConfusion (he.symm.trans h)
  · exact absurd ht h
  · exact e

/-- The receive side has no part in the queue (20_memory.md R49). -/
theorem queuedBytes_rxTick (v : Level) (s : State) : queuedBytes (rxTick v s) = queuedBytes s := by
  rw [rxTick_writes]
  rfl

theorem State.Lawful.txPos_lt (h : s.Lawful) (ha : s.txActive = true) : s.txPos.toNat < 15 := by
  obtain ⟨hp, -⟩ := h.nextPosition_txPos ha
  omega

/-- ENQ while Idle loads the frame and queues nothing (41_transmit.md R93). -/
theorem enqueue_while_idle (hl : s.Lawful) (ha : s.txActive = false) (b : Byte) :
    queuedBytes s = [] ∧ queuedBytes (enqueue b s) = [] ∧ (enqueue b s).txActive = true ∧
      (enqueue b s).txFrame = buildFrame s.fd b := by
  have he := hl.idleEmpty ha
  rw [enqueue_of_idle he ha]
  exact ⟨queuedBytes_of_empty he, queuedBytes_of_empty he, rfl, rfl⟩

/-- ENQ while Shifting puts the byte last when there is room (41_transmit.md R94). -/
theorem enqueue_while_room (hl : s.Lawful) (ha : s.txActive = true) (hr : (queuedBytes s).length < 16) (b : Byte) :
    queuedBytes (enqueue b s) = queuedBytes s ++ [b] ∧ (enqueue b s).overruns = s.overruns := by
  rw [queuedBytes_length] at hr
  rw [enqueue_of_room hl.emptyFlag ha hr]
  exact ⟨queuedBytes_append hl.memory hl.emptyFlag hr b, rfl⟩

/-- ENQ on a full FIFO drops the byte and records it (41_transmit.md R95). -/
theorem enqueue_while_full (hl : s.Lawful) (hf : ¬ (queuedBytes s).length < 16) (b : Byte) :
    queuedBytes (enqueue b s) = queuedBytes s ∧ (enqueue b s).overruns = s.overruns ++ [b] := by
  rw [queuedBytes_length] at hf
  obtain ⟨he, ht⟩ := (fifoCount_eq_iff_full hl.emptyFlag).mp (Nat.le_antisymm (fifoCount_le s) (Nat.le_of_not_lt hf))
  rw [enqueue_of_full he ht]
  exact ⟨rfl, rfl⟩

/-- The tick that ends a frame with nothing queued leaves the transmitter Idle (41_transmit.md R98). -/
theorem txTick_end_with_nothing (hl : s.Lawful) (ha : s.txActive = true) (hp : s.txPos.toNat + 1 = frameLen s.fd)
    (hq : queuedBytes s = []) : queuedBytes (txTick s) = [] ∧ (txTick s).txActive = false := by
  have he := (queuedBytes_eq_nil_iff hl.emptyFlag).mp hq
  rw [txTick_last_empty ha (hl.txPos_lt ha) hp he]
  exact ⟨queuedBytes_of_empty he, rfl⟩

/-- The tick that ends a frame takes the first byte of the queue into the shift register (41_transmit.md R98). -/
theorem txTick_end_with_queue (hl : s.Lawful) (ha : s.txActive = true) (hp : s.txPos.toNat + 1 = frameLen s.fd)
    {b : Byte} {q : List Byte} (hq : queuedBytes s = b :: q) :
    queuedBytes (txTick s) = q ∧ (txTick s).txActive = true ∧ (txTick s).txFrame = buildFrame s.fd b ∧
      (txTick s).txPos = 0 := by
  have he : s.empty = false := by
    rw [← Bool.not_eq_true, ← queuedBytes_eq_nil_iff hl.emptyFlag, hq]
    exact List.cons_ne_nil b q
  obtain ⟨rfl, rfl⟩ := List.cons.inj ((queuedBytes_of_queued he).symm.trans hq)
  rw [txTick_last_queued ha (hl.txPos_lt ha) hp he]
  exact ⟨rfl, rfl, rfl, rfl⟩

/-- Settles O50: on a lawful running state each operation is total, and acts on the queue by the lemma of its clause. -/
theorem theFifoIsABoundedQueue : Obligations.TheFifoIsABoundedQueue := by
  rintro s t ⟨hl, -⟩ hr
  have enq {b} (h : exec (.enq b) s = .next t) : enqueue b s = t :=
    Host.Outcome.next.inj ((exec_enq hr b hl.emptyFlag).symm.trans h)
  have txtick (h : exec .txtick s = .next t) : txTick s = t := Host.Outcome.next.inj ((exec_txtick hr).symm.trans h)
  refine ⟨fun b h ha => ?_, fun b h ha hlt => ?_, fun b h _ hge => ?_, fun h ha hp => ?_, fun h ha hp hq => ?_,
    fun b q h ha hp hq => ?_, fun v h => ?_, queuedBytes_length s, fifoCount_le s⟩
  · exact enq h ▸ enqueue_while_idle hl ha b
  · exact enq h ▸ enqueue_while_room hl ha hlt b
  · exact enq h ▸ enqueue_while_full hl hge b
  · rw [← txtick h, txTick_mid ha (hl.txPos_lt ha) hp]
    rfl
  · exact txtick h ▸ txTick_end_with_nothing hl ha hp hq
  · exact txtick h ▸ txTick_end_with_queue hl ha hp hq
  · rw [← Host.Outcome.next.inj ((exec_rxtick hr v).symm.trans h)]
    exact queuedBytes_rxTick v s

/-! ### CFG applied twice -/

/-- CFG writes the same values whatever the state was, so its second application finds them there (40_configuration.md R83). -/
theorem configure_configure (w : ConfigWord) (s : State) : configure w (configure w s) = configure w s := rfl

theorem configure_running (h : s.Running) (w : ConfigWord) : (configure w s).Running := ⟨h.started, h.fault⟩

/-- Settles O11: both applications run, since CFG with a valid word keeps the engine running, by `configure_configure`. -/
theorem cfgIsIdempotent : Obligations.CfgIsIdempotent := fun s w hr hw =>
  ⟨configure w s, exec_cfg_valid hr hw, exec_cfg_valid (configure_running hr w) hw⟩

/-! ### The number of active strobes -/

/-- Each active strobe contributes one action (10_state.md R34). -/
theorem Pins.strobes_length (p : Pins) :
    p.strobes.length = [p.reset, p.cfgStrobe, p.enqStrobe, p.txTick, p.rxTick].count true := by
  simp only [Pins.strobes, List.length_append, apply_ite List.length, List.length_singleton, List.length_nil,
    List.count_cons, List.count_nil, beq_true]
  omega

theorem Pins.action_of_no_strobe {p : Pins} (h : p.strobes.length = 0) : p.action = .idle := by
  rw [Pins.action, List.length_eq_zero_iff.mp h]

theorem Pins.action_of_two_strobes {p : Pins} (h : 2 ≤ p.strobes.length) :
    p.action = .refuse .simultaneousOperations := by
  match hs : p.strobes with
  | [] => simp [hs] at h
  | [_] => simp [hs] at h
  | _ :: _ :: _ => rw [Pins.action, hs]

/-- Settles O43: the action of the pins goes by how many strobes are active. -/
theorem twoStrobesAreRefused : Obligations.TwoStrobesAreRefused := by
  intro s p rest hp
  rw [← Pins.strobes_length, step_of_input hp, Input.action]
  exact ⟨fun h => by rw [Pins.action_of_two_strobes h, perform], fun h => by rw [Pins.action_of_no_strobe h, perform]⟩

end Sys2Proof.Machine
end

section
/-! Command words: decoding undoes encoding, which words are reserved, and the pin form. Each row of the table fixes the bits
of its mask. -/

namespace Sys2Proof

/-- The bits a row fixes (30_encoding.md R59). -/
theorem Row.getLsbD_of_covers {r : Row} {w : Word} (h : r.covers w = true) {j : Nat} (hm : r.mask.getLsbD j = true) :
    w.getLsbD j = r.bits.getLsbD j := by
  rw [← (covers_iff r w).mp h, BitVec.getLsbD_and, hm, Bool.and_true]

/-- Two words of one row that agree on the operand bits, those outside its mask, are the same word. -/
theorem Row.eq_of_covers {r : Row} {v w : Word} (hv : r.covers v = true) (hw : r.covers w = true)
    (h : ∀ j < 18, r.mask.getLsbD j = false → v.getLsbD j = w.getLsbD j) : v = w := by
  apply BitVec.eq_of_getLsbD_eq
  intro j hj
  cases hm : r.mask.getLsbD j with
  | false => exact h j hj hm
  | true => rw [r.getLsbD_of_covers hv hm, r.getLsbD_of_covers hw hm]

/-- A word belongs to one row at most, the rows being disjoint (30_encoding.md R59). -/
theorem Row.not_covers_of_covers {r q : Row} (hr : r ∈ rows) (hq : q ∈ rows) (hne : q ≠ r) {w : Word}
    (h : r.covers w = true) : q.covers w = false := by
  have hsymm : Std.Symm (fun r q : Row => r.bits &&& q.mask ≠ q.bits &&& r.mask) := ⟨fun _ _ h => h.symm⟩
  rw [Bool.eq_false_iff]
  intro h'
  apply rows_disjoint.forall hr hq hne.symm
  rw [← (covers_iff r w).mp h, ← (covers_iff q w).mp h', BitVec.and_assoc, BitVec.and_assoc, BitVec.and_comm r.mask]

/-- An instruction's word belongs to its row. -/
theorem covers_encode (i : Instr) : (rowOf i).covers (encode i) = true := by
  rw [covers_iff]
  cases i with
  | cfg w => exact Laws.EncodingRow.cfg w
  | enq b => exact Laws.EncodingRow.enq b
  | txtick => exact Laws.EncodingRow.txtick
  | rxtick v => exact Laws.EncodingRow.rxtick v

/-! ### What the decoder answers, row by row -/

variable {w : Word}

theorem decode_of_rowCfg (h : rowCfg.covers w = true) : decode w = .ok (.cfg (argOf w)) := by
  simp [decode, h]

theorem decode_of_rowEnq (h : rowEnq.covers w = true) : decode w = .ok (.enq (byteOf w)) := by
  have hc : rowCfg.covers w = false := Row.not_covers_of_covers (by decide) (by decide) (by decide) h
  simp [decode, hc, h]

theorem decode_of_rowTxtick (h : rowTxtick.covers w = true) : decode w = .ok .txtick := by
  have hc : rowCfg.covers w = false := Row.not_covers_of_covers (by decide) (by decide) (by decide) h
  have he : rowEnq.covers w = false := Row.not_covers_of_covers (by decide) (by decide) (by decide) h
  simp [decode, hc, he, h]

theorem decode_of_rowRxtick (h : rowRxtick.covers w = true) : decode w = .ok (.rxtick (levelOf w)) := by
  have hc : rowCfg.covers w = false := Row.not_covers_of_covers (by decide) (by decide) (by decide) h
  have he : rowEnq.covers w = false := Row.not_covers_of_covers (by decide) (by decide) (by decide) h
  have ht : rowTxtick.covers w = false := Row.not_covers_of_covers (by decide) (by decide) (by decide) h
  simp [decode, hc, he, ht, h]

theorem decode_of_no_row (h : ∀ r ∈ rows, r.covers w = false) : decode w = .error .reservedCommand := by
  simp only [rows, List.forall_mem_cons] at h
  simp [decode, h]

/-- The five answers of the decoder (30_encoding.md R59, R75). -/
theorem decode_cases (w : Word) :
    (rowCfg.covers w = true ∧ decode w = .ok (.cfg (argOf w))) ∨
    (rowEnq.covers w = true ∧ decode w = .ok (.enq (byteOf w))) ∨
    (rowTxtick.covers w = true ∧ decode w = .ok .txtick) ∨
    (rowRxtick.covers w = true ∧ decode w = .ok (.rxtick (levelOf w))) ∨
    ((∀ r ∈ rows, r.covers w = false) ∧ decode w = .error .reservedCommand) := by
  by_cases h : ∃ r ∈ rows, r.covers w = true
  · obtain ⟨r, hr, h⟩ := h
    simp only [rows, List.mem_cons, List.not_mem_nil, or_false] at hr
    rcases hr with rfl | rfl | rfl | rfl
    · exact .inl ⟨h, decode_of_rowCfg h⟩
    · exact .inr (.inl ⟨h, decode_of_rowEnq h⟩)
    · exact .inr (.inr (.inl ⟨h, decode_of_rowTxtick h⟩))
    · exact .inr (.inr (.inr (.inl ⟨h, decode_of_rowRxtick h⟩)))
  · have h : ∀ r ∈ rows, r.covers w = false := fun r hr => Bool.eq_false_iff.mpr fun hc => h ⟨r, hr, hc⟩
    exact .inr (.inr (.inr (.inr ⟨h, decode_of_no_row h⟩)))

/-- Exactly the words that no row covers are reserved (30_encoding.md R75). -/
theorem decode_eq_error_iff : decode w = .error .reservedCommand ↔ ∀ r ∈ rows, r.covers w = false := by
  refine ⟨fun h => ?_, decode_of_no_row⟩
  rcases decode_cases w with ⟨-, e⟩ | ⟨-, e⟩ | ⟨-, e⟩ | ⟨-, e⟩ | ⟨hn, -⟩
  · cases e.symm.trans h
  · cases e.symm.trans h
  · cases e.symm.trans h
  · cases e.symm.trans h
  · exact hn

/-! ### Encoding what was decoded -/

theorem encode_cfg_argOf (h : rowCfg.covers w = true) : encode (.cfg (argOf w)) = w := by
  refine Row.eq_of_covers (covers_encode (.cfg _)) h fun j hj hm => ?_
  have hm16 : ∀ j < 18, rowCfg.mask.getLsbD j = false → j < 16 := by decide
  have ha := congrArg (fun a => a.getLsbD j) (argOf_encode_cfg (argOf w))
  simpa [argOf, hm16 j hj hm] using ha

theorem encode_enq_byteOf (h : rowEnq.covers w = true) : encode (.enq (byteOf w)) = w := by
  refine Row.eq_of_covers (covers_encode (.enq _)) h fun j hj hm => ?_
  have hm8 : ∀ j < 18, rowEnq.mask.getLsbD j = false → j < 8 := by decide
  have hb := congrArg (fun b => b.getLsbD j) (byteOf_encode_enq (byteOf w))
  simpa [byteOf, hm8 j hj hm] using hb

theorem encode_of_rowTxtick (h : rowTxtick.covers w = true) : encode .txtick = w := by
  refine Row.eq_of_covers (covers_encode .txtick) h fun j hj hm => ?_
  have hall : ∀ j < 18, rowTxtick.mask.getLsbD j = true := by decide
  cases (hall j hj).symm.trans hm

theorem encode_rxtick_levelOf (h : rowRxtick.covers w = true) : encode (.rxtick (levelOf w)) = w := by
  refine Row.eq_of_covers (covers_encode (.rxtick _)) h fun j hj hm => ?_
  have hm0 : ∀ j < 18, rowRxtick.mask.getLsbD j = false → j = 0 := by decide
  obtain rfl := hm0 j hj hm
  exact levelOf_encode_rxtick (levelOf w)

theorem encode_of_decode {i : Instr} (h : decode w = .ok i) : encode i = w := by
  rcases decode_cases w with ⟨hr, e⟩ | ⟨hr, e⟩ | ⟨hr, e⟩ | ⟨hr, e⟩ | ⟨-, e⟩
  · rw [← Decoded.ok.inj (e.symm.trans h), encode_cfg_argOf hr]
  · rw [← Decoded.ok.inj (e.symm.trans h), encode_enq_byteOf hr]
  · rw [← Decoded.ok.inj (e.symm.trans h), encode_of_rowTxtick hr]
  · rw [← Decoded.ok.inj (e.symm.trans h), encode_rxtick_levelOf hr]
  · cases e.symm.trans h

/-- The decoder reads back what the encoder wrote: the word belongs to the instruction's row and holds its operand. -/
theorem decode_encode (i : Instr) : decode (encode i) = .ok i := by
  cases i with
  | cfg w => rw [decode_of_rowCfg (covers_encode (.cfg w)), argOf_encode_cfg]
  | enq b => rw [decode_of_rowEnq (covers_encode (.enq b)), byteOf_encode_enq]
  | txtick => exact decode_of_rowTxtick (covers_encode .txtick)
  | rxtick v => rw [decode_of_rowRxtick (covers_encode (.rxtick v)), levelOf_encode_rxtick]

/-- Settles O45: `encode_of_decode` is one direction, `decode_encode` at the encoded word the other. -/
theorem decodeAndEncodeAgree : Obligations.DecodeAndEncodeAgree :=
  fun _ i => ⟨encode_of_decode, fun h => h ▸ decode_encode i⟩

/-- Settles O46: the words are closed, and the decoder computes. -/
theorem writtenWordsDecode : Obligations.WrittenWordsDecode := by
  unfold Obligations.WrittenWordsDecode
  decide

/-! ### The reserved words, field by field -/

/-- A row whose mask is the bits from `k` on compares exactly those bits. -/
theorem Row.covers_iff_high {r : Row} (k : Nat) (hm : ∀ j < 18, r.mask.getLsbD j = decide (k ≤ j))
    (hb : ∀ j < k, r.bits.getLsbD j = false) : r.covers w = true ↔ w.toNat / 2 ^ k = r.bits.toNat / 2 ^ k := by
  rw [← Nat.shiftRight_eq_div_pow, ← Nat.shiftRight_eq_div_pow, ← BitVec.toNat_ushiftRight, ← BitVec.toNat_ushiftRight,
    BitVec.toNat_inj]
  constructor
  · intro h
    apply BitVec.eq_of_getLsbD_eq
    intro j _
    rw [BitVec.getLsbD_ushiftRight, BitVec.getLsbD_ushiftRight]
    by_cases hj : k + j < 18
    · exact r.getLsbD_of_covers h (by simp [hm _ hj])
    · rw [BitVec.getLsbD_of_ge _ _ (by omega), BitVec.getLsbD_of_ge _ _ (by omega)]
  · intro h
    rw [covers_iff]
    apply BitVec.eq_of_getLsbD_eq
    intro j hj
    rw [BitVec.getLsbD_and, hm j hj]
    by_cases hk : k ≤ j
    · have := congrArg (fun v => v.getLsbD (j - k)) h
      simpa [hk] using this
    · simp [hk, hb j (by omega)]

theorem extractLsb'_eq_iff (k n : Nat) (v : BitVec n) : w.extractLsb' k n = v ↔ w.toNat / 2 ^ k % 2 ^ n = v.toNat := by
  rw [← BitVec.toNat_inj, BitVec.extractLsb'_toNat, Nat.shiftRight_eq_div_pow]

theorem covers_rowCfg_iff : rowCfg.covers w = true ↔ w.extractLsb' 16 2 = 0b00#2 := by
  rw [Row.covers_iff_high 16 (by decide) (by decide), extractLsb'_eq_iff]
  have := w.isLt
  simp only [rowCfg, BitVec.toNat_ofNat]
  omega

theorem covers_rowEnq_iff :
    rowEnq.covers w = true ↔ w.extractLsb' 16 2 = 0b01#2 ∧ w.extractLsb' 8 8 = 0#8 := by
  rw [Row.covers_iff_high 8 (by decide) (by decide), extractLsb'_eq_iff, extractLsb'_eq_iff]
  have := w.isLt
  simp only [rowEnq, BitVec.toNat_ofNat]
  omega

theorem covers_rowTxtick_iff :
    rowTxtick.covers w = true ↔ w.extractLsb' 16 2 = 0b10#2 ∧ w.extractLsb' 0 16 = 0#16 := by
  rw [Row.covers_iff_high 0 (by decide) (by decide), extractLsb'_eq_iff, extractLsb'_eq_iff]
  have := w.isLt
  simp only [rowTxtick, BitVec.toNat_ofNat]
  omega

theorem covers_rowRxtick_iff :
    rowRxtick.covers w = true ↔ w.extractLsb' 16 2 = 0b11#2 ∧ w.extractLsb' 1 15 = 0#15 := by
  rw [Row.covers_iff_high 1 (by decide) (by decide), extractLsb'_eq_iff, extractLsb'_eq_iff]
  have := w.isLt
  simp only [rowRxtick, BitVec.toNat_ofNat]
  omega

theorem opcode_cases : ∀ op : BitVec 2, op = 0b00#2 ∨ op = 0b01#2 ∨ op = 0b10#2 ∨ op = 0b11#2 := by decide

/-- Every opcode has its row, so a word is reserved when a must-be-zero field of that row is not zero (R75). -/
theorem decode_eq_error_iff_fields : decode w = .error .reservedCommand ↔
    (w.extractLsb' 16 2 = 0b01#2 ∧ w.extractLsb' 8 8 ≠ 0#8) ∨
    (w.extractLsb' 16 2 = 0b10#2 ∧ w.extractLsb' 0 16 ≠ 0#16) ∨
    (w.extractLsb' 16 2 = 0b11#2 ∧ w.extractLsb' 1 15 ≠ 0#15) := by
  simp only [decode_eq_error_iff, rows, List.forall_mem_cons, Bool.eq_false_iff, ne_eq, covers_rowCfg_iff,
    covers_rowEnq_iff, covers_rowTxtick_iff, covers_rowRxtick_iff]
  rcases opcode_cases (w.extractLsb' 16 2) with h | h | h | h <;> simp [h]

namespace Machine

theorem action_command_of_reserved (h : decode w = .error .reservedCommand) :
    (Input.command w).action = .refuse .reservedCommand := by
  simp [Input.action, commandAction, h]

/-- Settles O42: the words by their fields; the refusal by the action they ask for. -/
theorem reservedWordsAreRefused : Obligations.ReservedWordsAreRefused :=
  ⟨fun _ => decode_eq_error_iff_fields, fun s w rest hp hd => by
    rw [step_of_input hp, action_command_of_reserved hd, perform]⟩

/-! ### The pin form -/

theorem Pins.action_of_one_strobe {p : Pins} {a : Action} (h : p.strobes = [a]) : p.action = a := by
  rw [Pins.action, h]

theorem action_command_encode (i : Instr) : (Input.command (encode i)).action = .run i :=
  action_command_of_decode (decode_encode i)

/-- Settles O44: both inputs ask for the same action, from the same state with the input taken. -/
theorem pinFormAndCommandWordAgree : Obligations.PinFormAndCommandWordAgree := by
  intro s p i rest hp
  rw [step_of_input (rest := rest) rfl, step_of_input (rest := rest) rfl, action_command_encode, Input.action,
    Pins.action_of_one_strobe hp]

end Machine

end Sys2Proof
end

section
/-! Configuration words: which are valid, what a valid one selects, and the keyword form of CFG. -/

namespace Sys2Proof.Machine

/-! ### The tables of indices (30_encoding.md R61, R63) -/

theorem startBitsOf_isSome_iff : ∀ i : BitVec 1, (startBitsOf i).isSome = true ↔ i.toNat = 0 := by decide

theorem parityOf_isSome_iff : ∀ i : BitVec 3, (parityOf i).isSome = true ↔ i.toNat ≤ 4 := by decide

theorem stopBitsOf_isSome_iff : ∀ i : BitVec 2, (stopBitsOf i).isSome = true ↔ i.toNat ≤ 2 := by decide

theorem dataCount_dataBitsOf : ∀ i : BitVec 2, dataCount (dataBitsOf i) = 5 + i.toNat := by decide

theorem baudTable_getElem?_isSome_iff (n : Nat) : (baudTable[n]?).isSome = true ↔ n ≤ 13 := by
  rw [isSome_getElem?, show baudTable.length = 14 from rfl]
  omega

/-! ### The descriptor a word names -/

variable {w : ConfigWord} {fd : FrameDescriptor}

/-- The framing fields name a descriptor field by field (30_encoding.md R64). -/
theorem framingOf_eq_some_iff : framingOf w = some fd ↔
    startBitsOf (startSel w) = some fd.startBits ∧ dataBitsOf (dataSel w) = fd.dataBits ∧
      parityOf (paritySel w) = some fd.parity ∧ stopBitsOf (stopSel w) = some fd.stopBits := by
  obtain ⟨a, d, p, t⟩ := fd
  unfold framingOf
  split
  · next ha hp ht => simp [ha, hp, ht]
  · next hn =>
    constructor
    · intro h
      cases h
    · rintro ⟨ha, -, hp, ht⟩
      exact absurd ht (hn _ _ _ ha hp)

theorem framingOf_isSome_iff : (framingOf w).isSome = true ↔
    (startSel w).toNat = 0 ∧ (paritySel w).toNat ≤ 4 ∧ (stopSel w).toNat ≤ 2 := by
  rw [← startBitsOf_isSome_iff, ← parityOf_isSome_iff, ← stopBitsOf_isSome_iff]
  simp only [Option.isSome_iff_exists, framingOf_eq_some_iff]
  constructor
  · rintro ⟨fd, ha, -, hp, ht⟩
    exact ⟨⟨_, ha⟩, ⟨_, hp⟩, ⟨_, ht⟩⟩
  · rintro ⟨⟨a, ha⟩, ⟨p, hp⟩, ⟨t, ht⟩⟩
    exact ⟨⟨a, dataBitsOf (dataSel w), p, t⟩, ha, rfl, hp, ht⟩

/-- Settles O7: each condition of `Valid` says that its table has the index. -/
theorem validWordsAreThoseTheTablesName : Obligations.ValidWordsAreThoseTheTablesName := by
  intro w
  rw [validConfig_iff, framingOf_isSome_iff, baudTable_getElem?_isSome_iff, baudTable_getElem?_isSome_iff]
  simp only [and_assoc]

/-- Settles O8: for a valid word by the fields of `framingOf`; the tables are closed. -/
theorem decodeGivesTheSelectedDescriptor : Obligations.DecodeGivesTheSelectedDescriptor := by
  refine ⟨fun w hw => ?_, by decide⟩
  obtain ⟨-, hd, hp, ht⟩ := framingOf_eq_some_iff.mp (descriptor_of_valid hw)
  exact ⟨startTicks_eq _, by rw [← hd]; exact dataCount_dataBitsOf _, hp, ht⟩

/-- Settles O2: the word is closed, and its fields, descriptor and rates compute. -/
theorem defaultWordHoldsTheDefaults : Obligations.DefaultWordHoldsTheDefaults := by
  unfold Obligations.DefaultWordHoldsTheDefaults
  decide

/-- Settles O9: the rates are read off the table; the last two conditions of `Valid` shut out 14 and 15. -/
theorem baudTableGivesTheListedRates : Obligations.BaudTableGivesTheListedRates := by
  refine ⟨by decide, fun w h => ?_⟩
  rw [Bool.eq_false_iff]
  intro hw
  obtain ⟨-, -, -, htx, hrx⟩ := (validConfig_iff w).mp hw
  unfold txBaudSel at htx
  unfold rxBaudSel at hrx
  omega

/-! ### The keyword form of CFG (30_encoding.md R79) -/

theorem dataBitsOf_dataIndex (d : DataBits) : dataBitsOf (dataIndex d) = d := by
  cases d <;> rfl

theorem parityOf_parityIndex (p : Parity) : parityOf (parityIndex p) = some p := by
  cases p <;> rfl

theorem stopBitsOf_stopIndex (t : StopBits) : stopBitsOf (stopIndex t) = some t := by
  cases t <;> rfl

/-- An index found in the table is legal and holds the rate asked for. -/
theorem baudIndex_spec {rate : Nat} {i : BitVec 4} (h : baudIndex rate = some i) : i.toNat ≤ 13 ∧ baudRate i = rate := by
  obtain ⟨n, hn, rfl⟩ := Option.map_eq_some_iff.mp h
  obtain ⟨hlt, hr, -⟩ := List.findIdx?_eq_some_iff_getElem.mp hn
  have hlen : baudTable.length = 14 := rfl
  have hi : (BitVec.ofNat 4 n).toNat = n := by
    rw [BitVec.toNat_ofNat]
    omega
  have hlegal : (BitVec.ofNat 4 n).toNat ≤ 13 := by omega
  have hrate := baudRate_of_legal hlegal
  rw [hi, List.getElem?_eq_getElem hlt, beq_iff_eq.mp hr] at hrate
  exact ⟨hlegal, (Option.some.inj hrate).symm⟩

theorem baudIndex_of_mem {rate : Nat} (h : rate ∈ baudTable) : ∃ i, baudIndex rate = some i := by
  have hf : (baudTable.findIdx? (· == rate)).isSome = true := by
    rw [List.findIdx?_isSome, List.any_eq_true]
    exact ⟨rate, h, beq_self_eq_true rate⟩
  obtain ⟨n, hn⟩ := Option.isSome_iff_exists.mp hf
  exact ⟨_, by rw [baudIndex, hn, Option.map_some]⟩

theorem CfgKeywords.word_eq_some_iff {k : CfgKeywords} : k.word = some w ↔
    ∃ tx rx, baudIndex k.txBaud = some tx ∧ baudIndex k.rxBaud = some rx ∧
      packConfig (dataIndex k.data) (parityIndex k.parity) (stopIndex k.stop) tx rx = w := by
  unfold CfgKeywords.word
  split
  · next tx rx ht hr => simp [ht, hr]
  · next hn =>
    constructor
    · intro h
      cases h
    · rintro ⟨tx, rx, ht, hr, -⟩
      exact absurd hr (hn _ _ ht)

/-- The framing fields that the keywords pack name what the keywords say. -/
theorem framingOf_packConfig (d : DataBits) (p : Parity) (t : StopBits) (tx rx : BitVec 4) :
    framingOf (packConfig (dataIndex d) (parityIndex p) (stopIndex t) tx rx) = some ⟨.one, d, p, t⟩ := by
  rw [framingOf_eq_some_iff, startSel_packConfig, dataSel_packConfig, paritySel_packConfig, stopSel_packConfig]
  exact ⟨rfl, dataBitsOf_dataIndex d, parityOf_parityIndex p, stopBitsOf_stopIndex t⟩

theorem validConfig_packConfig (d : DataBits) (p : Parity) (t : StopBits) {tx rx : BitVec 4} (htx : tx.toNat ≤ 13)
    (hrx : rx.toNat ≤ 13) : validConfig (packConfig (dataIndex d) (parityIndex p) (stopIndex t) tx rx) = true := by
  obtain ⟨hs, hp, ht⟩ := framingOf_isSome_iff.mp (Option.isSome_of_eq_some (framingOf_packConfig d p t tx rx))
  refine (validConfig_iff _).mpr ⟨hs, hp, ht, ?_, ?_⟩
  · rwa [txBaudSel_packConfig]
  · rwa [rxBaudSel_packConfig]

/-- Settles O49: every field of the packed word reads back the index its keyword has in the table. -/
theorem keywordConfigurationSelectsWhatItSays : Obligations.KeywordConfigurationSelectsWhatItSays := by
  refine ⟨fun k w hw => ?_, fun k htx hrx => ?_, by decide⟩
  · obtain ⟨tx, rx, htx, hrx, rfl⟩ := CfgKeywords.word_eq_some_iff.mp hw
    obtain ⟨htx, etx⟩ := baudIndex_spec htx
    obtain ⟨hrx, erx⟩ := baudIndex_spec hrx
    have hv := validConfig_packConfig k.data k.parity k.stop htx hrx
    refine ⟨hv, Option.some.inj ((descriptor_of_valid hv).symm.trans (framingOf_packConfig ..)), ?_, ?_⟩
    · rw [txRateOf, txBaudSel_packConfig, etx]
    · rw [rxRateOf, rxBaudSel_packConfig, erx]
  · obtain ⟨tx, htx⟩ := baudIndex_of_mem htx
    obtain ⟨rx, hrx⟩ := baudIndex_of_mem hrx
    exact ⟨_, CfgKeywords.word_eq_some_iff.mpr ⟨tx, rx, htx, hrx, rfl⟩⟩

end Sys2Proof.Machine
end

section
/-! Frames: the levels of a built frame, its parity bit, extraction bit by bit, and frame lengths;
and the ticks that find no frame to work on. -/

namespace Sys2Proof.Machine

variable (fd : FrameDescriptor) (b : Byte) (f : FrameBits)

theorem firstStop_eq : firstStop fd = 1 + dataCount fd.dataBits + parityTicks fd.parity := by
  rw [firstStop, startTicks_eq]

/-- `FrameLen` (30_encoding.md R67). -/
theorem frameLen_eq : frameLen fd = 1 + dataCount fd.dataBits + parityTicks fd.parity + stopTicks fd.stopBits := by
  rw [frameLen, firstStop_eq]

/-! ### The levels of a built frame (30_encoding.md R70) -/

theorem buildFrame_start : (buildFrame fd b).getLsbD 0 = space := by
  rw [buildFrame_getLsbD fd b (by omega), frameLevel, if_pos rfl]

theorem buildFrame_data {i : Nat} (h : i < dataCount fd.dataBits) : (buildFrame fd b).getLsbD (1 + i) = b.getLsbD i := by
  have hd := dataCount_bounds fd.dataBits
  rw [buildFrame_getLsbD fd b (by omega), frameLevel, if_neg (by omega), if_pos (by omega), Nat.add_sub_cancel_left]

theorem buildFrame_parity {p : Level} (h : parityBit fd b = some p) :
    (buildFrame fd b).getLsbD (1 + dataCount fd.dataBits) = p := by
  have hd := dataCount_bounds fd.dataBits
  rw [buildFrame_getLsbD fd b (by omega), frameLevel, if_neg (by omega), if_neg (by omega), if_pos (by omega), h,
    Option.getD_some]

theorem buildFrame_stop {j : Nat} (h : firstStop fd ≤ j) (hj : j ≤ 11) : (buildFrame fd b).getLsbD j = mark := by
  rw [buildFrame_getLsbD fd b (by omega), frameLevel_of_stop fd b h]

/-- Settles O26: one lemma for each field of the frame; the examples are closed. -/
theorem builtFramesHaveTheFieldsInOrder : Obligations.BuiltFramesHaveTheFieldsInOrder :=
  ⟨fun fd b => ⟨buildFrame_start fd b, fun _ => buildFrame_data fd b, fun _ => buildFrame_parity fd b,
    fun _ hj => buildFrame_stop fd b ((firstStop_eq fd).trans_le hj)⟩, by decide⟩

/-! ### The parity bit (30_encoding.md R69) -/

theorem countP_eq_sum_toNat (p : Nat → Bool) (l : List Nat) : l.countP p = (l.map fun i => (p i).toNat).sum := by
  induction l with
  | nil => rfl
  | cons a l ih =>
    rw [List.countP_cons, List.map_cons, List.sum_cons, ih, Nat.add_comm]
    cases p a <;> rfl

theorem add_toNat_decide_even (n : Nat) : (n + (decide (n % 2 = 0)).toNat) % 2 = 1 := by
  rcases Nat.mod_two_eq_zero_or_one n with h | h
  · simp [Nat.add_mod, h]
  · simp [h]

theorem add_toNat_decide_odd (n : Nat) : (n + (decide (n % 2 = 1)).toNat) % 2 = 0 := by
  rcases Nat.mod_two_eq_zero_or_one n with h | h
  · simp [h]
  · simp [Nat.add_mod, h]

/-- Settles O27: mode by mode; Odd and Even add the bit that the count of ones still lacks. -/
theorem parityBitsMakeTheCountOddOrEven : Obligations.ParityBitsMakeTheCountOddOrEven := by
  intro fd b
  refine ⟨fun h => ?_, fun h => ?_, fun h => ?_, fun h => ?_, fun h => ?_, countP_eq_sum_toNat _ _⟩
  · rw [parityBit, h]
  · exact ⟨_, by rw [parityBit, h], add_toNat_decide_even _⟩
  · exact ⟨_, by rw [parityBit, h], add_toNat_decide_odd _⟩
  · rw [parityBit, h]
  · rw [parityBit, h]

/-! ### Extraction (30_encoding.md R71, R72) -/

theorem parityError_iff : parityError fd f = true ↔
    ∃ p, parityBit fd (frameData fd f) = some p ∧ f.getLsbD (1 + dataCount fd.dataBits) ≠ p := by
  unfold parityError
  split
  · next hn => simp [hn]
  · next p hp => simp [hp]

theorem framingError_iff : framingError fd f = true ↔ ∃ j, firstStop fd ≤ j ∧ j < frameLen fd ∧ f.getLsbD j = false := by
  simp only [framingError, List.any_eq_true, List.mem_range, Bool.not_eq_true', frameLen]
  constructor
  · rintro ⟨j, hj, h⟩
    exact ⟨firstStop fd + j, by omega, by omega, h⟩
  · rintro ⟨j, hj, hlt, h⟩
    exact ⟨j - firstStop fd, by omega, by rwa [Nat.add_sub_cancel' hj]⟩

/-- The data field of a built frame is what is sent of the byte. -/
theorem frameData_buildFrame : frameData fd (buildFrame fd b) = sentByte fd b := by
  apply BitVec.eq_of_getLsbD_eq
  intro i hi
  by_cases h : i < dataCount fd.dataBits
  · rw [frameData_buildFrame_getLsbD fd b h]
    simp [sentByte, hi, h]
  · rw [frameData_getLsbD fd _ hi]
    simp [sentByte, h]

/-- The parity bit of a built frame is the one of the data received, the same bits being counted. -/
theorem parityError_buildFrame : parityError fd (buildFrame fd b) = false := by
  rw [Bool.eq_false_iff, ne_eq, parityError_iff]
  rintro ⟨p, hp, hne⟩
  rw [parityBit_congr fd fun i => frameData_buildFrame_getLsbD fd b] at hp
  exact hne (buildFrame_parity fd b hp)

theorem framingError_buildFrame : framingError fd (buildFrame fd b) = false := by
  rw [Bool.eq_false_iff, ne_eq, framingError_iff]
  rintro ⟨j, hj, hlt, h⟩
  have hl := frameLen_bounds fd
  exact Bool.noConfusion (h.symm.trans (buildFrame_stop fd b hj (by omega)))

/-- Extraction undoes the formatter. -/
theorem extractFrame_buildFrame : extractFrame fd (buildFrame fd b) = ⟨sentByte fd b, 0b00#2⟩ := by
  rw [extractFrame, frameData_buildFrame, frameStatus, framingError_buildFrame, parityError_buildFrame]
  rfl

/-- Settles O29: the byte by `frameData_getLsbD`, each status bit by the condition that sets it. -/
theorem extractionInvertsTheFormatter : Obligations.ExtractionInvertsTheFormatter := by
  intro fd
  refine ⟨fun f => ⟨fun i hi => frameData_getLsbD fd f hi, ?_, ?_⟩, extractFrame_buildFrame fd⟩
  · rw [extractFrame, frameStatus_getLsbD_zero, parityError_iff]
  · rw [extractFrame, frameStatus_getLsbD_one, framingError_iff, firstStop_eq]

/-! ### Frame lengths (30_encoding.md R67, R68) -/

theorem parityTicks_eq (p : Parity) : parityTicks p = if p = .none then 0 else 1 := by
  cases p <;> rfl

/-- Settles O28: the formula by `frameLen_eq`; 1.5 and 2 stop bits have the same ticks, and only those are read. -/
theorem frameLengthsAreSevenToTwelve : Obligations.FrameLengthsAreSevenToTwelve := by
  refine ⟨fun fd => ⟨?_, frameLen_bounds fd⟩, by decide, by decide, by decide,
    fun a d p => ⟨rfl, fun _ => rfl, fun _ => rfl⟩⟩
  rw [frameLen_eq, parityTicks_eq]
  cases fd.stopBits <;> rfl

/-! ### Operations with no effect (30_encoding.md R77) -/

/-- Settles O18: on a running engine the tick is `txTick` or `rxTick`, which then answers the state it got. -/
theorem ticksWithNothingToDoChangeNothing : Obligations.TicksWithNothingToDoChangeNothing := fun s hr =>
  ⟨fun ha => by rw [exec_txtick hr, txTick_idle ha], fun ha => by rw [exec_rxtick hr, rxTick_idle ha]⟩

end Sys2Proof.Machine
end

section
/-! CFG: its outcomes and its frame, the rates it selects, and the engine it leaves to the next ENQ. -/

namespace Sys2Proof.Machine

variable {s t : State} {w : ConfigWord}

/-! ### The outcomes of CFG (40_configuration.md R81, R86, R88) -/

/-- A CFG that answers a next state has installed its word or recorded the violation, as the word is valid or not. -/
theorem exec_cfg_next (h : exec (.cfg w) s = .next t) :
    (validConfig w = true ∧ t = configure w s) ∨
      (validConfig w = false ∧ t = { s with fault := some .invalidSelection }) := by
  have hr := running_of_exec_next h
  cases hw : validConfig w with
  | true => exact .inl ⟨rfl, Host.Outcome.next.inj (h.symm.trans (exec_cfg_valid hr hw))⟩
  | false => exact .inr ⟨rfl, Host.Outcome.next.inj (h.symm.trans (exec_cfg_invalid hr hw))⟩

/-- The word RESET applies gives a running engine its reset state, but for the holding register, the events and the inputs
to come (10_state.md R38). -/
theorem configure_cfgReset (hr : s.Running) : configure Config.cfgReset s = { State.reset with
    rxData := s.rxData, rxStatus := s.rxStatus, delivered := s.delivered, overruns := s.overruns
    pending := s.pending, draws := s.draws } := by
  rw [configure, hr.started, hr.fault]
  rfl

theorem Pins.action_ofInstr_cfg (w : ConfigWord) : (Pins.ofInstr (.cfg w)).action = .run (.cfg w) :=
  Pins.action_of_one_strobe rfl

/-- Settles O6: the first clause is the invalid case of `exec`; the words are closed. -/
theorem invalidSelectionChangesOnlyTheFault : Obligations.InvalidSelectionChangesOnlyTheFault :=
  ⟨fun _ _ hr hw => exec_cfg_invalid hr hw, by decide⟩

/-- Settles O5: a started engine is faulted or running, and a running one goes by whether the word is valid. -/
theorem cfgFollowsItsRule : Obligations.CfgFollowsItsRule := by
  refine ⟨fun s w hs => ⟨fun kind hf => exec_faulted hs hf _, fun hf hw => exec_cfg_invalid ⟨hs, hf⟩ hw,
    fun hf hw => exec_cfg_valid ⟨hs, hf⟩ hw⟩, memRead_memClear,
    fun w => ⟨rfl, Pins.action_ofInstr_cfg w, rfl, rfl⟩, fun s hr => ?_⟩
  rw [← configure_cfgReset hr]
  exact exec_cfg_valid hr validConfig_cfgReset

/-- Settles O25: by the two next states that CFG can answer. -/
theorem cfgFrame : Obligations.CfgFrame := by
  intro s t w h
  rcases exec_cfg_next h with ⟨hw, rfl⟩ | ⟨hw, rfl⟩
  · exact ⟨fun _ => ⟨rfl, rfl, rfl, rfl, rfl, rfl, rfl, rfl, memRead_memClear⟩,
      fun hn => Bool.noConfusion (hw.symm.trans hn)⟩
  · exact ⟨fun hv => Bool.noConfusion (hw.symm.trans hv), fun _ => ⟨rfl, fun _ => rfl⟩⟩

/-! ### The rates (40_configuration.md R84) -/

/-- Settles O10: the configured state's rates are those of the word, each the table at its own field. -/
theorem ratesAreIndependent : Obligations.RatesAreIndependent :=
  ⟨fun s w w' hr hw hw' => ⟨configure w s, configure w' s, exec_cfg_valid hr hw, exec_cfg_valid hr hw', rfl, rfl,
    congrArg baudRate, congrArg baudRate, rfl, rfl, rfl, rfl⟩, by decide⟩

/-! ### The ENQ after CFG (40_configuration.md R87) -/

/-- CFG leaves the transmitter Idle with nothing queued, so the next ENQ takes the bypass branch (41_transmit.md R93). -/
theorem exec_enq_configure (hr : s.Running) (w : ConfigWord) (b : Byte) :
    exec (.enq b) (configure w s) = .next (txLoad b (configure w s)) := by
  rw [exec_enq (configure_running hr w) b fun _ => rfl, enqueue_of_idle rfl rfl]

/-- Settles O12: the two states are the configured one and the one `exec_enq_configure` loads the frame into. -/
theorem reconfigurationAbortsAndTheNextFrameIsFresh : Obligations.ReconfigurationAbortsAndTheNextFrameIsFresh :=
  fun s w b hr hw => ⟨configure w s, txLoad b (configure w s), exec_cfg_valid hr hw, fifoCount_of_empty rfl, rfl, rfl, rfl,
    rfl, rfl, rfl, rfl, exec_enq_configure hr w b, rfl, rfl, rfl, rfl, memRead_memClear⟩

end Sys2Proof.Machine
end

section
/-! ENQ: its branches and its frame. -/

namespace Sys2Proof.Machine

variable {s t : State} {b : Byte}

/-! ### What an ENQ that answers a next state did (41_transmit.md R91 to R95) -/

/-- An ENQ that answers a next state has taken a branch or recorded the violation, as its precondition holds or not. -/
theorem exec_enq_next (h : exec (.enq b) s = .next t) :
    ((s.empty = true → s.head = s.tail) ∧ t = enqueue b s) ∨
      (s.empty = true ∧ s.head ≠ s.tail ∧ t = { s with fault := some .fifoInvariant }) := by
  have hr := running_of_exec_next h
  by_cases hp : s.empty = true → s.head = s.tail
  · exact .inl ⟨hp, Host.Outcome.next.inj (h.symm.trans (exec_enq hr b hp))⟩
  · obtain ⟨he, hne⟩ := Classical.not_imp.mp hp
    exact .inr ⟨he, hne, Host.Outcome.next.inj (h.symm.trans (exec_enq_broken hr b he hne))⟩

/-- A branch of ENQ raises nothing (41_transmit.md R92). -/
theorem enqueue_fault (b : Byte) (s : State) : (enqueue b s).fault = s.fault := by
  rw [enqueue_writes]

theorem enqueue_running (h : s.Running) (b : Byte) : (enqueue b s).Running := by
  rw [enqueue_writes]
  exact ⟨h.started, h.fault⟩

theorem txLoad_running (h : s.Running) (b : Byte) : (txLoad b s).Running := ⟨h.started, h.fault⟩

theorem append_eq (b : Byte) (s : State) :
    append b s = { s with fifo := memWrite s.fifo s.tail b, tail := s.tail + 1, empty := false } := by
  rw [append, nextIndex_eq]

/-- The pin form of an operation activates its strobe alone (10_state.md R34). -/
theorem Pins.action_ofInstr (i : Instr) : (Pins.ofInstr i).action = .run i := by
  cases i <;> exact Pins.action_of_one_strobe rfl

/-- Settles O13: the precondition holds, and the bypass branch is TXLOAD. -/
theorem enqueueBypassesAnIdleTransmitter : Obligations.EnqueueBypassesAnIdleTransmitter := by
  refine ⟨fun s b hr he ht ha => ?_, fun b => ⟨rfl, Pins.action_ofInstr (.enq b)⟩⟩
  rw [exec_enq hr b fun _ => ht, enqueue_of_idle he ha]
  rfl

/-- With some slots filled and some free ENQ appends, whatever the transmitter does. -/
theorem enqueue_of_partly_filled (he : s.empty = false) (hne : s.head ≠ s.tail) (b : Byte) : enqueue b s = append b s := by
  simp [enqueue, enqBypasses, enqAppends, he, hne]

/-- Either condition of R94 leaves a slot free and leads to the append branch. -/
theorem enqueue_of_append_condition (b : Byte)
    (hc : (s.empty = true ∧ s.head = s.tail ∧ s.txActive = true) ∨ (s.empty = false ∧ s.head ≠ s.tail)) :
    (s.empty = true → s.head = s.tail) ∧ fifoCount s < 16 ∧ enqueue b s = append b s := by
  rcases hc with ⟨he, ht, ha⟩ | ⟨he, hne⟩
  · have hroom : fifoCount s < 16 := by rw [fifoCount_of_empty he]; decide
    exact ⟨fun _ => ht, hroom, enqueue_of_room (fun _ => ht) ha hroom b⟩
  · have hp : s.empty = true → s.head = s.tail := fun h => Bool.noConfusion (he.symm.trans h)
    have hroom : fifoCount s ≠ 16 := fun h => hne ((fifoCount_eq_iff_full hp).mp h).2
    exact ⟨hp, Nat.lt_of_le_of_ne (fifoCount_le s) hroom, enqueue_of_partly_filled he hne b⟩

/-- Settles O14: the branch is `append`; the slots by the laws of memory, the full state by its count of sixteen. -/
theorem enqueueAppendsAtTail : Obligations.EnqueueAppendsAtTail := by
  intro s b hr hc
  obtain ⟨hp, hroom, e⟩ := enqueue_of_append_condition b hc
  have hcount := fifoCount_append hp hroom b
  refine ⟨append b s, by rw [exec_enq hr b hp, e], append_eq b s, fun hm => memRead_memWrite_same hm s.tail b,
    fun i hi => memRead_memWrite_other s.fifo hi b, hcount, fun hlast => ?_⟩
  obtain ⟨he, ht⟩ := (fifoCount_eq_iff_full (s := append b s) nofun).mp (hcount.trans hlast)
  exact ⟨ht.symm, he⟩

/-- An ENQ branch that records an event found the FIFO full (41_transmit.md R95). -/
theorem full_of_enqueue_overruns (h : (enqueue b s).overruns ≠ s.overruns) : s.empty = false ∧ s.head = s.tail := by
  rcases enqueue_cases b s with ⟨-, -, e⟩ | ⟨-, -, e⟩ | ⟨he, ht, -⟩
  · exact absurd (by rw [e]; rfl) h
  · exact absurd (by rw [e]; rfl) h
  · exact ⟨he, ht⟩

/-- Settles O15: forward by `enqueue_of_full`, backward by `full_of_enqueue_overruns`. -/
theorem enqueueDropsWhenFull : Obligations.EnqueueDropsWhenFull := by
  refine ⟨fun s b hr he ht => ?_, fun s t b h hne => ?_⟩
  · rw [exec_enq hr b fun _ => ht, enqueue_of_full he ht]
    rfl
  · rcases exec_enq_next h with ⟨hp, rfl⟩ | ⟨-, -, rfl⟩
    · obtain ⟨he, ht⟩ := full_of_enqueue_overruns hne
      exact ⟨he, ht, (fifoCount_eq_iff_full hp).mpr ⟨he, ht⟩, (enqueue_overruns b s).resolve_left hne⟩
    · exact absurd rfl hne

/-- Settles O16: a branch of ENQ keeps `fault` at none, so a fault comes from the false precondition, which is I2. -/
theorem enqueuePreconditionFault : Obligations.EnqueuePreconditionFault := by
  refine ⟨fun s b hr he hne => exec_enq_broken hr b he hne, fun s t b h hf => ?_, fun s t b hi h => ?_⟩
  · rcases exec_enq_next h with ⟨-, rfl⟩ | ⟨he, hne, -⟩
    · exact absurd (enqueue_running (running_of_exec_next h) b).fault hf
    · exact ⟨he, hne⟩
  · rcases exec_enq_next h with ⟨-, rfl⟩ | ⟨he, hne, -⟩
    · exact (enqueue_running (running_of_exec_next h) b).fault
    · exact absurd (hi.lawful.emptyFlag he) hne

/-! ### The frame of ENQ -/

theorem fifoFull_iff (s : State) : fifoFull s = true ↔ s.empty = false ∧ s.head = s.tail := by
  simp [fifoFull]

theorem enqueue_of_not_appends (h : enqAppends s = false) (b : Byte) :
    (enqueue b s).fifo = s.fifo ∧ (enqueue b s).tail = s.tail ∧ (enqueue b s).empty = s.empty := by
  rw [enqueue, h, if_neg Bool.false_ne_true]
  split
  · exact ⟨rfl, rfl, rfl⟩
  · exact ⟨rfl, rfl, rfl⟩

theorem enqueue_of_not_bypasses (h : enqBypasses s = false) (b : Byte) :
    (enqueue b s).txActive = s.txActive ∧ (enqueue b s).txFrame = s.txFrame ∧ (enqueue b s).txPos = s.txPos := by
  rw [enqueue, h, if_neg Bool.false_ne_true]
  split
  · exact ⟨rfl, rfl, rfl⟩
  · exact ⟨rfl, rfl, rfl⟩

/-- The one slot that ENQ stores to is the one at `tail`, in the append branch (41_transmit.md R94). -/
theorem memRead_enqueue_other {a : SlotIndex} (h : ¬ (enqAppends s = true ∧ a = s.tail)) (b : Byte) :
    memRead (enqueue b s).fifo a = memRead s.fifo a := by
  cases hap : enqAppends s with
  | false => rw [(enqueue_of_not_appends hap b).1]
  | true =>
    have hne : a ≠ s.tail := fun ha => h ⟨hap, ha⟩
    rcases enqueue_cases b s with ⟨-, -, e⟩ | ⟨-, -, e⟩ | ⟨-, -, e⟩ <;> rw [e]
    · rfl
    · exact memRead_memWrite_other s.fifo hne b
    · rfl

theorem enqueue_overruns_of_not_full (h : fifoFull s = false) (b : Byte) : (enqueue b s).overruns = s.overruns := by
  by_contra hne
  exact Bool.noConfusion (h.symm.trans ((fifoFull_iff s).mpr (full_of_enqueue_overruns hne)))

/-- Settles O17: a branch by the lemma of each clause; the false precondition records the fault and changes nothing else. -/
theorem enqueueFrame : Obligations.EnqueueFrame := by
  intro s t b h
  rcases exec_enq_next h with ⟨hp, rfl⟩ | ⟨he, hne, rfl⟩
  · have hpre := (enqPrecondition_iff s).mpr hp
    refine ⟨?_, fun a ha => memRead_enqueue_other (fun ⟨hap, hat⟩ => ha ⟨hpre, hap, hat⟩) b,
      fun hap => enqueue_of_not_appends hap b, fun hb => enqueue_of_not_bypasses hb b, fun _ => enqueue_fault b s,
      fun hn => Bool.noConfusion (hpre.symm.trans hn), fun hf => enqueue_overruns_of_not_full hf b⟩
    rw [enqueue_fault]
    exact enqueue_writes b s
  · exact ⟨rfl, fun _ _ => rfl, fun _ => ⟨rfl, rfl, rfl⟩, fun _ => ⟨rfl, rfl, rfl⟩,
      fun hpre => absurd ((enqPrecondition_iff s).mp hpre he) hne, fun _ => rfl, fun _ => rfl⟩

/-! ### ENQs in a row (41_transmit.md R101) -/

/-- The state after the bytes are enqueued one after the other. -/
def enqueueAll (bs : List Byte) (s : State) : State := bs.foldl (fun s b => enqueue b s) s

theorem enqueueAll_cons (b : Byte) (bs : List Byte) (s : State) :
    enqueueAll (b :: bs) s = enqueueAll bs (enqueue b s) := rfl

theorem execAll_enq_cons (hl : s.Lawful) (hr : s.Running) (b : Byte) (is : List Instr) :
    execAll (.enq b :: is) s = execAll is (enqueue b s) := by
  rw [execAll, exec_enq hr b hl.emptyFlag]

/-- From a lawful running state every ENQ of a row completes. -/
theorem execAll_enq (bs : List Byte) (hl : s.Lawful) (hr : s.Running) :
    execAll (bs.map .enq) s = .next (enqueueAll bs s) := by
  induction bs generalizing s with
  | nil => rfl
  | cons b bs ih =>
    rw [List.map_cons, execAll_enq_cons hl hr, ih (enqueue_lawful hl b) (enqueue_running hr b), enqueueAll_cons]

theorem enqueueAll_lawful (bs : List Byte) (hl : s.Lawful) : (enqueueAll bs s).Lawful := by
  induction bs generalizing s with
  | nil => exact hl
  | cons b bs ih => exact ih (enqueue_lawful hl b)

theorem enqueueAll_running (bs : List Byte) (hr : s.Running) : (enqueueAll bs s).Running := by
  induction bs generalizing s with
  | nil => exact hr
  | cons b bs ih => exact ih (enqueue_running hr b)

/-- While Shifting, as many bytes as there is room for are queued in order, none is lost and the frame in flight stays. -/
theorem enqueueAll_while_room (bs : List Byte) (hl : s.Lawful) (ha : s.txActive = true)
    (hroom : (queuedBytes s).length + bs.length ≤ 16) :
    queuedBytes (enqueueAll bs s) = queuedBytes s ++ bs ∧ (enqueueAll bs s).overruns = s.overruns ∧
      (enqueueAll bs s).txFrame = s.txFrame := by
  induction bs generalizing s with
  | nil => exact ⟨(List.append_nil _).symm, rfl, rfl⟩
  | cons b bs ih =>
    rw [List.length_cons] at hroom
    obtain ⟨hq, ho⟩ := enqueue_while_room hl ha (by omega) b
    have hb : enqBypasses s = false := by simp [enqBypasses, ha]
    obtain ⟨ha', hf, -⟩ := enqueue_of_not_bypasses hb b
    have hroom' : (queuedBytes (enqueue b s)).length + bs.length ≤ 16 := by
      rw [hq, List.length_append, List.length_singleton]
      omega
    obtain ⟨hq', ho', hf'⟩ := ih (enqueue_lawful hl b) (ha'.trans ha) hroom'
    rw [enqueueAll_cons]
    exact ⟨by rw [hq', hq, List.append_assoc, List.singleton_append], ho'.trans ho, hf'.trans hf⟩

/-- Sixteen ENQs while Shifting with nothing queued fill the FIFO, and the next is dropped (41_transmit.md R101). -/
theorem saturation_while_shifting (hl : s.Lawful) (hr : s.Running) (ha : s.txActive = true) (he : s.empty = true)
    {bs : List Byte} (hbs : bs.length = 16) (b : Byte) :
    ∃ t u, execAll (bs.map .enq) s = .next t ∧ t.txFrame = s.txFrame ∧ queuedBytes t = bs ∧ t.overruns = s.overruns ∧
      exec (.enq b) t = .next u ∧ queuedBytes u = bs ∧ u.overruns = s.overruns ++ [b] := by
  have h0 := queuedBytes_of_empty he
  have hl' := enqueueAll_lawful bs hl
  obtain ⟨hq, ho, hf⟩ := enqueueAll_while_room bs hl ha (by rw [h0, hbs]; decide)
  rw [h0, List.nil_append] at hq
  obtain ⟨hq', ho'⟩ := enqueue_while_full hl' (by rw [hq, hbs]; decide) b
  exact ⟨_, _, execAll_enq bs hl hr, hf, hq, ho, exec_enq (enqueueAll_running bs hr) b hl'.emptyFlag, hq'.trans hq,
    by rw [ho', ho]⟩

/-- Settles O55: from Idle the first ENQ loads the shift register, and both cases are then `saturation_while_shifting`. -/
theorem saturationDropsExactlyTheByteBeyondCapacity : Obligations.SaturationDropsExactlyTheByteBeyondCapacity := by
  refine ⟨fun s bs b hi hr ha he hbs => ?_, fun s b₀ bs b hi hr ha hbs => ?_⟩
  · obtain ⟨t, u, hx, -, h⟩ := saturation_while_shifting hi.lawful hr ha he hbs b
    exact ⟨t, u, hx, h⟩
  · have he := hi.lawful.idleEmpty ha
    rw [List.map_cons, execAll_enq_cons hi.lawful hr, enqueue_of_idle he ha]
    exact saturation_while_shifting (txLoad_lawful hi.lawful b₀) (txLoad_running hr b₀) rfl he hbs b

end Sys2Proof.Machine
end

section
/-! TXTICK: its outcomes and its frame, the transitions of the transmitter, and a frame sent to its end. -/

namespace Sys2Proof.Machine

variable {s t : State}

/-! ### A frame on the line (41_transmit.md R97, R102) -/

/-- The state a completed frame leaves: the line at its last stop bit, and TXDONE done (41_transmit.md R97, R98). -/
def frameDone (s : State) : State := txDone { s with txOut := mark }

theorem frameDone_of_empty (he : s.empty = true) : frameDone s = { s with txOut := mark, txActive := false, txPos := 0 } :=
  txDone_of_empty (s := { s with txOut := mark }) he

theorem frameDone_of_queued (he : s.empty = false) :
    frameDone s = dequeue (txLoad (memRead s.fifo s.head) { s with txOut := mark }) :=
  txDone_of_queued (s := { s with txOut := mark }) he

/-- Where in the frame the ticks began does not show once it is complete. -/
theorem frameDone_shiftOut (s : State) : frameDone (shiftOut s) = frameDone s := by
  cases he : s.empty with
  | true => rw [frameDone_of_empty he, frameDone_of_empty (s := shiftOut s) he]; rfl
  | false => rw [frameDone_of_queued he, frameDone_of_queued (s := shiftOut s) he]; rfl

/-- The tick that completes a frame drives its last bit, a stop bit. -/
theorem txTick_last (hl : s.Lawful) (ha : s.txActive = true) (hp : s.txPos.toNat + 1 = frameLen s.fd) :
    txTick s = frameDone s := by
  have hn := (hl.nextPosition_txPos ha).2.trans hp
  have hm := shiftOut_last hl ha hn
  rcases txTick_cases s with ⟨h, -⟩ | ⟨-, h, -⟩ | ⟨-, -, he, e⟩ | ⟨-, -, he, e⟩
  · exact Bool.noConfusion (ha.symm.trans h)
  · exact absurd hn h
  · rw [e, frameDone_of_queued he, ← hm]
    rfl
  · rw [e, frameDone_of_empty he, ← hm]
    rfl

theorem txTick_running (h : s.Running) : (txTick s).Running := by
  rw [txTick_writes]
  exact ⟨h.started, h.fault⟩

theorem transmitTicks_succ (hr : s.Running) (n : Nat) : transmitTicks (n + 1) s =
    (transmitTicks n (txTick s)).map fun r => ((txTick s).txOut :: r.1, r.2) := by
  rw [transmitTicks, exec_txtick hr]

/-- A Shifting tick drives the bit at the position it finds. -/
theorem txTick_txOut (hl : s.Lawful) (ha : s.txActive = true) : (txTick s).txOut = s.txFrame.getLsbD s.txPos.toNat := by
  have hb : (shiftOut s).txOut = s.txFrame.getLsbD s.txPos.toNat := levelAt_eq _ _ (hl.nextPosition_txPos ha).1
  rcases txTick_cases s with ⟨h, -⟩ | ⟨-, -, e⟩ | ⟨-, -, -, e⟩ | ⟨-, -, -, e⟩
  · exact Bool.noConfusion (ha.symm.trans h)
  all_goals rw [e]; exact hb

/-- The ticks that a frame in flight still takes drive what is left of it, and the last of them completes it. -/
theorem transmitTicks_to_frame_end {n : Nat} (hl : s.Lawful) (hr : s.Running) (ha : s.txActive = true)
    (hn : s.txPos.toNat + n = frameLen s.fd) :
    transmitTicks n s = some ((frameLevels s.fd s.txFrame).drop s.txPos.toNat, frameDone s) := by
  induction n generalizing s with
  | zero => exact absurd hn (Nat.ne_of_lt (hl.shiftPos ha))
  | succ n ih =>
    have hpos : s.txPos.toNat < (frameLevels s.fd s.txFrame).length := by
      rw [frameLevels_length]
      exact hl.shiftPos ha
    rw [transmitTicks_succ hr, List.drop_eq_getElem_cons hpos, frameLevels_getElem, txTick_txOut hl ha]
    cases n with
    | zero =>
      rw [txTick_last hl ha hn, List.drop_of_length_le (by rw [frameLevels_length, hn])]
      rfl
    | succ n =>
      have hnext := (hl.nextPosition_txPos ha).2
      have e : txTick s = shiftOut s := txTick_mid ha (hl.txPos_lt ha) (by omega)
      have hpos' : (txTick s).txPos.toNat + (n + 1) = frameLen (txTick s).fd := by
        rw [e, shiftOut_txPos, hnext]
        exact (by omega : s.txPos.toNat + 1 + (n + 1) = frameLen s.fd)
      have ha' : (txTick s).txActive = true := by rw [e]; exact ha
      rw [ih (txTick_lawful hl) (txTick_running hr) ha' hpos', e, frameDone_shiftOut, shiftOut_txPos, hnext]
      rfl

/-- Settles O51: ENQ loads the frame at position 0, and its ticks complete it with nothing queued. -/
theorem anIdleTransmitterSendsTheWholeFrame : Obligations.AnIdleTransmitterSendsTheWholeFrame := by
  intro s b hi hr ha
  have hl := hi.lawful
  have he := hl.idleEmpty ha
  have hticks := transmitTicks_to_frame_end (txLoad_lawful hl b) (txLoad_running hr b) rfl (Nat.zero_add _)
  rw [frameDone_of_empty (s := txLoad b s) he] at hticks
  have henq : exec (.enq b) s = .next (txLoad b s) := by rw [exec_enq hr b hl.emptyFlag, enqueue_of_idle he ha]
  exact ⟨txLoad b s, _, henq, hl.idleLine ha, hticks, rfl, rfl, rfl, he⟩

/-! ### The outcomes and the frame of TXTICK -/

/-- Settles O19: the outcomes by the lemma of each branch; the example is O51 from reset with its frame evaluated. -/
theorem transmitTickFollowsItsRule : Obligations.TransmitTickFollowsItsRule := by
  refine ⟨fun s hs => ⟨fun kind hf => exec_faulted hs hf _, fun hf ha => ?_, fun hf ha hp hl => ?_,
    fun hf ha hp hl he => ?_, fun hf ha hp hl he => ?_⟩, rfl, Pins.action_ofInstr .txtick, ?_⟩
  · rw [exec_txtick ⟨hs, hf⟩, txTick_idle ha]
  · rw [exec_txtick ⟨hs, hf⟩, txTick_mid ha (by omega) hl, shiftOut_eq hp]
  · rw [exec_txtick ⟨hs, hf⟩, txTick_last_queued ha (by omega) hl he, shiftOut_eq hp, dequeue, nextIndex_eq, beq_eq_decide]
    rfl
  · rw [exec_txtick ⟨hs, hf⟩, txTick_last_empty ha (by omega) hl he, shiftOut_eq hp]
  · obtain ⟨hi, hr, -⟩ := resetEstablishesTheInvariant
    obtain ⟨t, u, henq, -, hticks, hidle, -⟩ := anIdleTransmitterSendsTheWholeFrame State.reset 0x41#8 hi hr rfl
    exact ⟨t, u, henq, hticks, hidle⟩

/-- Settles O21: the fields by `txTick_writes`; `head`, the flag and the frame by the four things a tick can do. -/
theorem transmitTickFrame : Obligations.TransmitTickFrame := by
  intro s t h
  have e : t = txTick s := Host.Outcome.next.inj (h.symm.trans (exec_txtick (running_of_exec_next h)))
  subst e
  have hfifo : (txTick s).fifo = s.fifo := by rw [txTick_writes]
  refine ⟨txTick_writes s, fun a => by rw [hfifo], txTick_idle, ?_⟩
  rcases txTick_cases s with ⟨-, e⟩ | ⟨-, -, e⟩ | ⟨-, -, he, e⟩ | ⟨-, -, -, e⟩ <;> rw [e]
  · exact ⟨fun hne => absurd rfl hne, fun _ => ⟨rfl, rfl, rfl⟩⟩
  · exact ⟨fun hne => absurd rfl hne, fun _ => ⟨rfl, rfl, rfl⟩⟩
  · exact ⟨fun _ => ⟨he, nextIndex_eq s.head, rfl⟩, fun ht => Bool.noConfusion (he.symm.trans ht)⟩
  · exact ⟨fun hne => absurd rfl hne, fun _ => ⟨rfl, rfl, rfl⟩⟩

/-! ### The transitions of the transmitter (41_transmit.md R90) -/

/-- ENQ leaves the transmitter as it is, or loads the frame of its byte with nothing queued. -/
theorem enqueue_txActive (b : Byte) (s : State) :
    (enqueue b s).txActive = s.txActive ∨
      (s.empty = true ∧ (enqueue b s).txActive = true ∧ (enqueue b s).txFrame = buildFrame s.fd b) := by
  rcases enqueue_cases b s with ⟨he, -, e⟩ | ⟨-, -, e⟩ | ⟨-, -, e⟩ <;> rw [e]
  · exact .inr ⟨he, rfl, rfl⟩
  · exact .inl rfl
  · exact .inl rfl

/-- TXTICK leaves the transmitter as it is, or completes its frame with nothing queued. -/
theorem txTick_txActive (s : State) :
    (txTick s).txActive = s.txActive ∨
      (s.empty = true ∧ (nextPosition s.draws s.txPos).toNat = frameLen s.fd ∧ (txTick s).txActive = false) := by
  rcases txTick_cases s with ⟨-, e⟩ | ⟨-, -, e⟩ | ⟨ha, -, -, e⟩ | ⟨-, hl, he, e⟩ <;> rw [e]
  · exact .inl rfl
  · exact .inl rfl
  · exact .inl ha.symm
  · exact .inr ⟨he, hl, rfl⟩

/-- An operation leaves the transmitter as it is or makes one of the transitions of the table. -/
theorem exec_txActive {i : Instr} (h : exec i s = .next t) :
    t.txActive = s.txActive ∨
    (t.txActive = true ∧ ∃ b, i = .enq b ∧ s.empty = true ∧ t.txFrame = buildFrame s.fd b) ∨
    (t.txActive = false ∧ ((i = .txtick ∧ s.empty = true ∧ (nextPosition s.draws s.txPos).toNat = frameLen s.fd) ∨
      ∃ w, i = .cfg w ∧ validConfig w = true)) := by
  obtain ⟨-, ⟨w, rfl, hw, rfl⟩ | ⟨w, -, -, rfl⟩ | ⟨b, rfl, -, rfl⟩ | ⟨b, -, -, -, rfl⟩ | ⟨rfl, rfl⟩ | ⟨v, -, rfl⟩⟩ := exec_next h
  · exact .inr (.inr ⟨rfl, .inr ⟨w, rfl, hw⟩⟩)
  · exact .inl rfl
  · exact (enqueue_txActive b s).imp_right fun ⟨he, ht, hf⟩ => .inl ⟨ht, b, rfl, he, hf⟩
  · exact .inl rfl
  · exact (txTick_txActive s).imp_right fun ⟨he, hl, ht⟩ => .inr ⟨ht, .inl ⟨rfl, he, hl⟩⟩
  · rw [rxTick_writes]; exact .inl rfl

/-- Settles O33: of the transitions of `exec_txActive` only one fits each change of the flag. -/
theorem onlyTheTabledEventsMoveTheTransmitter : Obligations.OnlyTheTabledEventsMoveTheTransmitter := by
  intro s t i h
  rcases exec_txActive h with hsame | ⟨ht, hup⟩ | ⟨ht, hdown⟩
  · rw [hsame]
    exact ⟨fun h0 h1 => Bool.noConfusion (h0.symm.trans h1), fun h1 h0 => Bool.noConfusion (h0.symm.trans h1)⟩
  · exact ⟨fun _ _ => hup, fun _ h0 => Bool.noConfusion (h0.symm.trans ht)⟩
  · exact ⟨fun _ h1 => Bool.noConfusion (ht.symm.trans h1), fun _ _ => hdown⟩

/-! ### Narrow frames (41_transmit.md R103) -/

/-- Settles O30: the formatter reads only the data bits, and extraction gives them back. -/
theorem narrowFramesIgnoreHighBits : Obligations.NarrowFramesIgnoreHighBits := by
  refine ⟨fun fd b c h => buildFrame_congr fd h, fun fd b c h => ?_⟩
  rw [← frameData_buildFrame, ← frameData_buildFrame, h]

end Sys2Proof.Machine
end

section
/-! RXTICK: its outcomes and its frame, the transitions of the receiver, its independence of the transmitter, and a frame
received to its end. -/

namespace Sys2Proof.Machine

variable {s t : State} {v : Level} {vs us : List Level}

/-! ### The frame of RXTICK and the transitions of the receiver (42_receive.md R106, R107, R120) -/

theorem exec_rxtick_next (h : exec (.rxtick v) s = .next t) : t = rxTick v s :=
  Host.Outcome.next.inj (h.symm.trans (exec_rxtick (running_of_exec_next h) v))

/-- Only RXDONE writes the holding register, and it records what it writes (42_receive.md R110). -/
theorem rxTick_deliver (v : Level) (s : State) :
    ((rxTick v s).delivered = s.delivered ∧ (rxTick v s).rxData = s.rxData ∧ (rxTick v s).rxStatus = s.rxStatus) ∨
    ((rxTick v s).delivered = s.delivered ++ [⟨(rxTick v s).rxData, (rxTick v s).rxStatus⟩] ∧
      s.rxActive = true ∧ (rxTick v s).rxActive = false ∧ (rxTick v s).rxPos = 0) := by
  rcases rxTick_cases v s with ⟨-, -, e⟩ | ⟨-, -, e⟩ | ⟨-, -, e⟩ | ⟨ha, -, e⟩ <;> rw [e]
  · exact .inl ⟨rfl, rfl, rfl⟩
  · exact .inl ⟨rfl, rfl, rfl⟩
  · exact .inl ⟨rfl, rfl, rfl⟩
  · exact .inr ⟨rfl, ha, rfl, rfl⟩

/-- Settles O24: the fields by `rxTick_writes`, the holding register by `rxTick_deliver`. -/
theorem receiveTickFrame : Obligations.ReceiveTickFrame := by
  intro s t v h
  obtain rfl := exec_rxtick_next h
  have hfifo : (rxTick v s).fifo = s.fifo := by rw [rxTick_writes]
  refine ⟨rxTick_writes v s, fun a => by rw [hfifo], ?_⟩
  rcases rxTick_deliver v s with ⟨hd, hreg⟩ | ⟨hd, hlast⟩
  · exact ⟨fun _ => hreg, fun hne => absurd hd hne⟩
  · refine ⟨fun he => ?_, fun _ => ⟨hd, hlast⟩⟩
    rw [hd] at he
    exact absurd (List.append_right_eq_self.mp he) (List.cons_ne_nil _ _)

/-- RXTICK leaves the receiver as it is, detects a start bit, or completes a frame. -/
theorem rxTick_rxActive (v : Level) (s : State) :
    (rxTick v s).rxActive = s.rxActive ∨
    (v = space ∧ (rxTick v s).rxActive = true ∧ (rxTick v s).rxPos = 1 ∧ (rxTick v s).rxFrame.getLsbD 0 = space) ∨
    ((nextPosition s.draws s.rxPos).toNat = frameLen s.fd ∧ (rxTick v s).rxActive = false ∧
      (rxTick v s).delivered = s.delivered ++ [⟨(rxTick v s).rxData, (rxTick v s).rxStatus⟩]) := by
  rcases rxTick_cases v s with ⟨-, -, e⟩ | ⟨-, hv, e⟩ | ⟨-, -, e⟩ | ⟨-, hl, e⟩ <;> rw [e]
  · exact .inl rfl
  · exact .inr (.inl ⟨hv, rfl, rfl, startFrame_startBit⟩)
  · exact .inl rfl
  · exact .inr (.inr ⟨hl, rfl, rfl⟩)

/-- An operation leaves the receiver as it is or makes one of the transitions of the table. -/
theorem exec_rxActive {i : Instr} (h : exec i s = .next t) :
    t.rxActive = s.rxActive ∨
    (t.rxActive = true ∧ i = .rxtick space ∧ t.rxPos = 1 ∧ t.rxFrame.getLsbD 0 = space) ∨
    (t.rxActive = false ∧ ((∃ v, i = .rxtick v ∧ (nextPosition s.draws s.rxPos).toNat = frameLen s.fd ∧
        t.delivered = s.delivered ++ [⟨t.rxData, t.rxStatus⟩]) ∨
      ∃ w, i = .cfg w ∧ validConfig w = true)) := by
  obtain ⟨-, ⟨w, rfl, hw, rfl⟩ | ⟨w, -, -, rfl⟩ | ⟨b, -, -, rfl⟩ | ⟨b, -, -, -, rfl⟩ | ⟨-, rfl⟩ | ⟨v, rfl, rfl⟩⟩ := exec_next h
  · exact .inr (.inr ⟨rfl, .inr ⟨w, rfl, hw⟩⟩)
  · exact .inl rfl
  · rw [enqueue_writes]; exact .inl rfl
  · exact .inl rfl
  · rw [txTick_writes]; exact .inl rfl
  · rcases rxTick_rxActive v s with hsame | ⟨rfl, ha, hstart⟩ | ⟨hl, ha, hd⟩
    · exact .inl hsame
    · exact .inr (.inl ⟨ha, rfl, hstart⟩)
    · exact .inr (.inr ⟨ha, .inl ⟨v, rfl, hl, hd⟩⟩)

/-- Settles O34: of the transitions of `exec_rxActive` only one fits each change of the flag. -/
theorem onlyTheTabledEventsMoveTheReceiver : Obligations.OnlyTheTabledEventsMoveTheReceiver := by
  intro s t i h
  rcases exec_rxActive h with hsame | ⟨ht, hup⟩ | ⟨ht, hdown⟩
  · rw [hsame]
    exact ⟨fun h0 h1 => Bool.noConfusion (h0.symm.trans h1), fun h1 h0 => Bool.noConfusion (h0.symm.trans h1)⟩
  · exact ⟨fun _ _ => hup, fun _ h0 => Bool.noConfusion (h0.symm.trans ht)⟩
  · exact ⟨fun _ h1 => Bool.noConfusion (ht.symm.trans h1), fun _ _ => hdown⟩

/-! ### The two directions (42_receive.md R106) -/

/-- `s` with what RXTICK may write taken from `r`. -/
def State.withReceiver (s r : State) : State :=
  { s with
    rxActive := r.rxActive, rxFrame := r.rxFrame, rxPos := r.rxPos, rxData := r.rxData, rxStatus := r.rxStatus
    delivered := r.delivered }

/-- `s` with what TXTICK may write taken from `r`. -/
def State.withTransmitter (s r : State) : State :=
  { s with
    head := r.head, empty := r.empty, txActive := r.txActive, txFrame := r.txFrame, txPos := r.txPos, txOut := r.txOut }

theorem rxTick_eq_withReceiver (v : Level) (s : State) : rxTick v s = s.withReceiver (rxTick v s) := rxTick_writes v s

theorem txTick_eq_withTransmitter (s : State) : txTick s = s.withTransmitter (txTick s) := txTick_writes s

/-- TXTICK neither reads nor writes the receive side: every branch and every condition is the same without it. -/
theorem txTick_withReceiver (s r : State) : txTick (s.withReceiver r) = (txTick s).withReceiver r := by
  simp only [txTick, txDone, apply_ite (State.withReceiver · r)]
  rfl

/-- RXTICK neither reads nor writes the transmit side: every branch and every condition is the same without it. -/
theorem rxTick_withTransmitter (v : Level) (s r : State) :
    rxTick v (s.withTransmitter r) = (rxTick v s).withTransmitter r := by
  simp only [rxTick, apply_ite (State.withTransmitter · r)]
  rfl

theorem rxTick_running (h : s.Running) (v : Level) : (rxTick v s).Running := by
  rw [rxTick_writes]
  exact ⟨h.started, h.fault⟩

theorem txTick_rxTick (v : Level) (s : State) : txTick (rxTick v s) = rxTick v (txTick s) :=
  calc txTick (rxTick v s)
    _ = txTick (s.withReceiver (rxTick v s)) := by rw [← rxTick_eq_withReceiver]
    _ = (txTick s).withReceiver (rxTick v s) := txTick_withReceiver s _
    _ = (s.withTransmitter (txTick s)).withReceiver (rxTick v s) := by rw [← txTick_eq_withTransmitter]
    _ = (s.withReceiver (rxTick v s)).withTransmitter (txTick s) := rfl
    _ = (rxTick v s).withTransmitter (txTick s) := by rw [← rxTick_eq_withReceiver]
    _ = rxTick v (s.withTransmitter (txTick s)) := (rxTick_withTransmitter v s _).symm
    _ = rxTick v (txTick s) := by rw [← txTick_eq_withTransmitter]

/-- Settles O37: both ticks complete on a running engine, and each leaves alone what the other reads. -/
theorem theTwoDirectionsCommute : Obligations.TheTwoDirectionsCommute := fun s v hr _ _ =>
  ⟨txTick s, rxTick v s, rxTick v (txTick s), exec_txtick hr, exec_rxtick (txTick_running hr) v, exec_rxtick hr v, by
    rw [exec_txtick (rxTick_running hr v), txTick_rxTick]⟩

/-! ### A frame received (42_receive.md R108 to R110) -/

/-- The receiver while it holds the samples `vs` of a frame that is not complete. -/
def sampled (vs : List Level) (s : State) : State :=
  { s with rxFrame := sampledFrame vs, rxPos := BitVec.ofNat 4 vs.length, rxActive := true }

@[simp] theorem sampled_txOut (vs : List Level) (s : State) : (sampled vs s).txOut = s.txOut := rfl
@[simp] theorem sampled_rxFrame (vs : List Level) (s : State) : (sampled vs s).rxFrame = sampledFrame vs := rfl

theorem sampledFrame_getLsbD (vs : List Level) {i : Nat} (h : i < 12) :
    (sampledFrame vs).getLsbD i = vs.getD i mark := by
  simp [sampledFrame, h]

theorem setLevel_sampledFrame (vs : List Level) (v : Level) :
    setLevel (sampledFrame vs) vs.length v = sampledFrame (vs ++ [v]) := by
  apply BitVec.eq_of_getLsbD_eq
  intro i hi
  rw [setLevel_getLsbD _ _ _ hi, sampledFrame_getLsbD _ hi, sampledFrame_getLsbD _ hi]
  rcases Nat.lt_trichotomy i vs.length with h | h | h
  · rw [if_neg (by omega), List.getD_append _ _ _ _ h]
  · simp [h]
  · rw [if_neg (by omega), List.getD_eq_default _ _ (by omega), List.getD_eq_default _ _ (by simp; omega)]

theorem startFrame_eq (s : State) : startFrame s = sampled [space] s := by
  rw [startFrame, sampled, show sampledFrame [space] = 0xFFE#12 by decide]
  rfl

theorem sampled_running (hr : s.Running) (vs : List Level) : (sampled vs s).Running := ⟨hr.started, hr.fault⟩

theorem sampled_rxPos (h : vs.length < 12) : (sampled vs s).rxPos.toNat = vs.length :=
  Nat.mod_eq_of_lt (by omega)

theorem shiftIn_sampled (v : Level) (h : vs.length < 12) : shiftIn v (sampled vs s) = sampled (vs ++ [v]) s := by
  have hpos : (sampled vs s).rxPos + 1 = BitVec.ofNat 4 (vs ++ [v]).length := by
    rw [List.length_append, List.length_singleton, BitVec.ofNat_add]
    rfl
  rw [shiftIn_eq v (by rwa [sampled_rxPos h]), sampled_rxPos h, hpos]
  exact congrArg (fun f => { sampled (vs ++ [v]) s with rxFrame := f }) (setLevel_sampledFrame vs v)

theorem rxTick_sampled_mid (v : Level) (h : vs.length + 1 < frameLen s.fd) :
    rxTick v (sampled vs s) = sampled (vs ++ [v]) s := by
  have hl := frameLen_bounds s.fd
  have hp := sampled_rxPos (s := s) (vs := vs) (by omega)
  rw [rxTick_mid v rfl (by omega) (by rw [hp]; exact Nat.ne_of_lt h), shiftIn_sampled v (by omega)]

theorem rxTick_sampled_last (v : Level) (h : vs.length + 1 = frameLen s.fd) :
    rxTick v (sampled vs s) = rxDone (sampled (vs ++ [v]) s) := by
  have hl := frameLen_bounds s.fd
  have hp := sampled_rxPos (s := s) (vs := vs) (by omega)
  rw [rxTick_last v rfl (by omega) (by rw [hp]; exact h), shiftIn_sampled v (by omega)]

theorem receiveTicks_cons (hr : s.Running) (v : Level) (vs : List Level) :
    receiveTicks (v :: vs) s = receiveTicks vs (rxTick v s) := by
  rw [receiveTicks, List.map_cons, execAll, exec_rxtick hr]
  rfl

/-- Samples that do not complete the frame are only stored. -/
theorem receiveTicks_sampled_mid (hr : s.Running) (h : vs.length + us.length < frameLen s.fd) :
    receiveTicks us (sampled vs s) = .next (sampled (vs ++ us) s) := by
  induction us generalizing vs with
  | nil => rw [List.append_nil]; rfl
  | cons u us ih =>
    rw [List.length_cons] at h
    rw [receiveTicks_cons (sampled_running hr vs), rxTick_sampled_mid u (by omega),
      ih (by rw [List.length_append, List.length_singleton]; omega), List.append_assoc, List.singleton_append]

/-- The sample that completes the frame delivers it. -/
theorem receiveTicks_sampled_last (hr : s.Running) (hne : us ≠ []) (h : vs.length + us.length = frameLen s.fd) :
    receiveTicks us (sampled vs s) = .next (rxDone (sampled (vs ++ us) s)) := by
  induction us generalizing vs with
  | nil => exact absurd rfl hne
  | cons u us ih =>
    rw [List.length_cons] at h
    rw [receiveTicks_cons (sampled_running hr vs)]
    cases us with
    | nil => rw [rxTick_sampled_last u h]; rfl
    | cons u' us =>
      rw [List.length_cons] at h
      rw [rxTick_sampled_mid u (by omega), ih (List.cons_ne_nil _ _)
        (by rw [List.length_append, List.length_singleton, List.length_cons]; omega), List.append_assoc,
        List.singleton_append]

/-- A sampled 0 and some of the samples after it: the receiver holds them. -/
theorem receiveTicks_part (hr : s.Running) (ha : s.rxActive = false) (h : vs.length + 1 < frameLen s.fd) :
    receiveTicks (space :: vs) s = .next (sampled (space :: vs) s) := by
  rw [receiveTicks_cons hr, rxTick_start ha, startFrame_eq,
    receiveTicks_sampled_mid hr (by rw [List.length_singleton]; omega), List.singleton_append]

/-- A sampled 0 and the rest of its frame: the frame is delivered. -/
theorem receiveTicks_whole (hr : s.Running) (ha : s.rxActive = false) (h : vs.length + 1 = frameLen s.fd) :
    receiveTicks (space :: vs) s = .next (rxDone (sampled (space :: vs) s)) := by
  have hl := one_lt_frameLen s.fd
  have hne : vs ≠ [] := List.ne_nil_of_length_pos (by omega)
  rw [receiveTicks_cons hr, rxTick_start ha, startFrame_eq,
    receiveTicks_sampled_last hr hne (by rw [List.length_singleton]; omega), List.singleton_append]

/-- Settles O52: the whole frame by `receiveTicks_whole`, fewer samples by `receiveTicks_part`. -/
theorem aReceivedFrameIsDeliveredOnce : Obligations.AReceivedFrameIsDeliveredOnce := by
  intro s vs hr ha hlen
  refine ⟨⟨_, receiveTicks_whole hr ha hlen, rfl, rfl, rfl, rfl⟩, fun n hn => ?_⟩
  exact ⟨_, receiveTicks_part hr ha (by rw [List.length_take]; omega), rfl, rfl⟩

/-! ### The outcomes of RXTICK (42_receive.md R107, R110) -/

/-- Settles O22: the outcomes by the lemma of each branch; the example is a whole frame from reset, evaluated. -/
theorem receiveTickFollowsItsRule : Obligations.ReceiveTickFollowsItsRule := by
  refine ⟨fun s v hs => ⟨fun kind hf => exec_faulted hs hf _, fun hf ha hv => ?_, fun hf ha hv => ?_,
    fun hf ha hp hl => ?_, fun hf ha hp hl => ?_⟩, fun f i v j => setLevel_getLsbD f i v,
    fun v => ⟨rfl, Pins.action_ofInstr (.rxtick v)⟩, ?_⟩
  · rw [exec_rxtick ⟨hs, hf⟩, hv, rxTick_idle ha]
  · rw [exec_rxtick ⟨hs, hf⟩, hv, rxTick_start ha, startFrame]
  · rw [exec_rxtick ⟨hs, hf⟩, rxTick_mid v ha (by omega) hl, shiftIn_eq v hp]
  · rw [exec_rxtick ⟨hs, hf⟩, rxTick_last v ha (by omega) hl, shiftIn_eq v hp, rxDone_eq]
    rfl
  · exact ⟨_, receiveTicks_whole ⟨rfl, rfl⟩ rfl (by decide), by decide⟩

/-! ### A line held at 0, and a glitch (42_receive.md R116, R117) -/

variable {fd : FrameDescriptor} {f : FrameBits} {b : Byte}

/-- The data field of a register that holds the data bits of `b` is what is sent of `b`. -/
theorem frameData_of_bits (h : ∀ i < dataCount fd.dataBits, f.getLsbD (1 + i) = b.getLsbD i) :
    frameData fd f = sentByte fd b := by
  apply BitVec.eq_of_getLsbD_eq
  intro i hi
  rw [frameData_getLsbD fd f hi]
  by_cases hd : i < dataCount fd.dataBits
  · simp [sentByte, hi, hd, h i hd]
  · simp [sentByte, hd]

/-- The sampled parity bit is compared with the one of the byte whose data bits were sampled (42_receive.md R111). -/
theorem parityError_of_bits (h : ∀ i < dataCount fd.dataBits, f.getLsbD (1 + i) = b.getLsbD i) :
    parityError fd f = true ↔ ∃ p, parityBit fd b = some p ∧ f.getLsbD (1 + dataCount fd.dataBits) ≠ p := by
  have hp : parityBit fd (frameData fd f) = parityBit fd b := parityBit_congr fd fun i hi => by
    have hd := dataCount_bounds fd.dataBits
    rw [frameData_getLsbD fd f (by omega), h i hi, decide_eq_true hi, Bool.true_and]
  rw [parityError_iff, hp]

/-- No ones are an even count: their parity bit is 1 with Odd, and with Mark as always. -/
theorem parityBit_zero_eq_mark_iff (fd : FrameDescriptor) :
    parityBit fd 0x00#8 = some mark ↔ fd.parity = .odd ∨ fd.parity = .mark := by
  have h0 : onesIn (dataCount fd.dataBits) 0x00#8 = 0 := by simp [onesIn]
  unfold parityBit
  cases fd.parity <;> simp [h0]

theorem sentByte_zero (fd : FrameDescriptor) : sentByte fd 0x00#8 = 0x00#8 := by
  simp [sentByte]

/-- Samples of 0 throughout are a zero byte with a framing error (42_receive.md R116). -/
theorem extractFrame_of_low (h : ∀ i < frameLen fd, f.getLsbD i = space) :
    (extractFrame fd f).byte = 0x00#8 ∧ (extractFrame fd f).status.getLsbD 1 = true ∧
      (extractFrame fd f).status.getLsbD 0 = decide (fd.parity = .odd ∨ fd.parity = .mark) := by
  have hs := stopTicks_bounds fd.stopBits
  have hfs := firstStop_eq fd
  have hfl : frameLen fd = firstStop fd + stopTicks fd.stopBits := rfl
  have hdata : ∀ i < dataCount fd.dataBits, f.getLsbD (1 + i) = (0x00#8).getLsbD i := fun i hi => by
    rw [h _ (by omega), BitVec.getLsbD_zero]
  refine ⟨(frameData_of_bits hdata).trans (sentByte_zero fd), ?_, ?_⟩
  · rw [extractFrame, frameStatus_getLsbD_one, framingError_iff]
    exact ⟨firstStop fd, by omega, by omega, h _ (by omega)⟩
  · rw [extractFrame, frameStatus_getLsbD_zero, Bool.eq_iff_iff, parityError_of_bits hdata, h _ (by omega),
      decide_eq_true_iff, ← parityBit_zero_eq_mark_iff]
    simp

/-- Samples of 1 after the start bit are a byte of ones without a framing error (42_receive.md R117). -/
theorem extractFrame_of_glitch (h : ∀ i < frameLen fd, 1 ≤ i → f.getLsbD i = mark) :
    (extractFrame fd f).byte = sentByte fd 0xFF#8 ∧ (extractFrame fd f).status.getLsbD 1 = false ∧
      (extractFrame fd f).status.getLsbD 0 = decide (parityBit fd 0xFF#8 = some false) := by
  have hd := dataCount_bounds fd.dataBits
  have hs := stopTicks_bounds fd.stopBits
  have hfs := firstStop_eq fd
  have hfl : frameLen fd = firstStop fd + stopTicks fd.stopBits := rfl
  have hones : ∀ i < 8, (0xFF#8).getLsbD i = true := by decide
  have hdata : ∀ i < dataCount fd.dataBits, f.getLsbD (1 + i) = (0xFF#8).getLsbD i := fun i hi => by
    rw [h _ (by omega) (by omega), hones i (by omega)]
  refine ⟨frameData_of_bits hdata, ?_, ?_⟩
  · rw [extractFrame, frameStatus_getLsbD_one, Bool.eq_false_iff, ne_eq, framingError_iff]
    rintro ⟨j, hj, hlt, h0⟩
    exact Bool.noConfusion (h0.symm.trans (h j hlt (by omega)))
  · rw [extractFrame, frameStatus_getLsbD_zero, Bool.eq_iff_iff, parityError_of_bits hdata, h _ (by omega) (by omega),
      decide_eq_true_iff]
    simp

/-- Settles O53: both are whole frames, and what each delivers follows from the levels at the frame's positions. -/
theorem heldLowAndGlitchedLinesDeliverAsTheRulesSay : Obligations.HeldLowAndGlitchedLinesDeliverAsTheRulesSay := by
  intro s hr ha
  obtain ⟨h7, h12⟩ := frameLen_bounds s.fd
  have hlen (v : Level) : (List.replicate (frameLen s.fd - 1) v).length + 1 = frameLen s.fd := by
    rw [List.length_replicate]
    omega
  have hlow : List.replicate (frameLen s.fd) space = space :: List.replicate (frameLen s.fd - 1) space := by
    rw [← List.replicate_succ, Nat.sub_add_cancel (by omega)]
  constructor
  · refine ⟨_, _, hlow ▸ receiveTicks_whole hr ha (hlen space), rfl, rfl,
      extractFrame_of_low fun i (hi : i < frameLen s.fd) => ?_⟩
    rw [sampled_rxFrame, sampledFrame_getLsbD _ (by omega), List.getD_replicate _ hi]
  · refine ⟨_, _, receiveTicks_whole hr ha (hlen mark), rfl, rfl,
      extractFrame_of_glitch fun i (hi : i < frameLen s.fd) h1 => ?_⟩
    obtain ⟨k, rfl⟩ := Nat.exists_eq_add_of_le' h1
    rw [sampled_rxFrame, sampledFrame_getLsbD _ (by omega), List.getD_cons_succ, List.getD_replicate _ (by omega)]

end Sys2Proof.Machine
end

section
/-! The loopback wiring: a byte enqueued on a quiescent engine comes back in the last bit-time of its frame. -/

namespace Sys2Proof.Machine

variable {s : State} {b : Byte} {n m : Nat}

/-! ### One bit-time (30_encoding.md R80) -/

/-- The state that a presented input is applied to: the counter of the free values has moved on (log 8). -/
def State.counted (s : State) : State := { s with draws := s.draws + 1 }

theorem counted_running (hr : s.Running) : s.counted.Running := ⟨hr.started, hr.fault⟩

theorem applyInput_encode (i : Instr) (s : State) : applyInput (.command (encode i)) s = exec i s.counted := by
  rw [applyInput_eq, action_command_encode, perform, State.counted]

/-- The transmit half of a bit-time, up to the receive tick. -/
def drive (s : State) : State := (txTick s.counted).counted

theorem loopBack_succ (hr : s.Running) (n : Nat) : loopBack (n + 1) s = loopBack n (rxTick (drive s).txOut (drive s)) := by
  have ht := txTick_running (counted_running hr)
  rw [loopBack, applyInput_encode, exec_txtick (counted_running hr)]
  simp only [applyInput_encode, exec_rxtick (counted_running ht)]
  rfl

/-- The transmit half neither reads nor writes the receive side. -/
theorem drive_sampled (vs : List Level) (s : State) : drive (sampled vs s) = sampled vs (drive s) :=
  congrArg State.counted <| calc txTick (sampled vs s.counted)
    _ = (txTick s.counted).withReceiver (sampled vs s.counted) := txTick_withReceiver s.counted (sampled vs s.counted)
    _ = sampled vs (txTick s.counted) := by rw [txTick_eq_withTransmitter s.counted]; rfl

/-! ### The two sides of a looped frame -/

/-- `s` with the transmitter `n` bits into the frame of `b`. -/
def sending (b : Byte) (n : Nat) (s : State) : State := { txLoad b s with txPos := BitVec.ofNat 4 n }

/-- `s` with bit `n` of the frame of `b` on the line. -/
def driving (b : Byte) (n : Nat) (s : State) : State := { s with txOut := (buildFrame s.fd b).getLsbD n }

/-- `s` with the frame of `b` sent and the transmitter idle. -/
def sent (b : Byte) (s : State) : State := { s with txActive := false, txFrame := buildFrame s.fd b, txPos := 0 }

@[simp] theorem sending_fd (b : Byte) (n : Nat) (s : State) : (sending b n s).fd = s.fd := rfl
@[simp] theorem sending_txOut (b : Byte) (n : Nat) (s : State) : (sending b n s).txOut = s.txOut := rfl
@[simp] theorem sending_rxActive (b : Byte) (n : Nat) (s : State) : (sending b n s).rxActive = s.rxActive := rfl

@[simp] theorem sent_fd (b : Byte) (s : State) : (sent b s).fd = s.fd := rfl
@[simp] theorem sent_empty (b : Byte) (s : State) : (sent b s).empty = s.empty := rfl
@[simp] theorem sent_txOut (b : Byte) (s : State) : (sent b s).txOut = s.txOut := rfl
@[simp] theorem sent_delivered (b : Byte) (s : State) : (sent b s).delivered = s.delivered := rfl

theorem sending_txPos (h : n < 12) : (sending b n s).txPos.toNat = n := Nat.mod_eq_of_lt (by omega)

theorem shiftOut_sending (h : n < 12) : shiftOut (sending b n s) = sending b (n + 1) (driving b n s) := by
  have hpos : (sending b n s).txPos + 1 = BitVec.ofNat 4 (n + 1) := (BitVec.ofNat_add n 1).symm
  rw [shiftOut_eq (by rwa [sending_txPos h]), sending_txPos h, hpos]
  rfl

theorem txTick_sending_mid (h : n + 1 < frameLen s.fd) : txTick (sending b n s) = sending b (n + 1) (driving b n s) := by
  have hl := frameLen_bounds s.fd
  have hp := sending_txPos (b := b) (n := n) (s := s) (by omega)
  rw [txTick_mid rfl (by omega) (by rw [hp]; exact Nat.ne_of_lt h), shiftOut_sending (by omega)]

theorem txTick_sending_last (he : s.empty = true) (h : n + 1 = frameLen s.fd) :
    txTick (sending b n s) = sent b (driving b n s) := by
  have hl := frameLen_bounds s.fd
  have hp := sending_txPos (b := b) (n := n) (s := s) (by omega)
  rw [txTick_last_empty (s := sending b n s) rfl (by omega) (by rw [hp]; exact h) he, shiftOut_sending (by omega)]
  rfl

/-- The first `n` levels of the frame of `b`, in the order they go onto the line. -/
def levelsSent (fd : FrameDescriptor) (b : Byte) (n : Nat) : List Level := (frameLevels fd (buildFrame fd b)).take n

theorem levelsSent_length {fd : FrameDescriptor} (b : Byte) (h : n ≤ frameLen fd) : (levelsSent fd b n).length = n := by
  rw [levelsSent, List.length_take, frameLevels_length, Nat.min_eq_left h]

theorem levelsSent_succ {fd : FrameDescriptor} (b : Byte) (h : n < frameLen fd) :
    levelsSent fd b (n + 1) = levelsSent fd b n ++ [(buildFrame fd b).getLsbD n] := by
  rw [levelsSent, List.take_add_one, List.getElem?_eq_getElem (by rwa [frameLevels_length]), frameLevels_getElem,
    Option.toList_some, levelsSent]

theorem levelsSent_one (fd : FrameDescriptor) (b : Byte) : levelsSent fd b 1 = [space] := by
  rw [levelsSent_succ b (Nat.zero_lt_of_lt (one_lt_frameLen fd)), buildFrame_start]
  rfl

/-- A receiver that was sent all levels of a built frame holds that frame: above them both are at mark. -/
theorem sampledFrame_levelsSent (fd : FrameDescriptor) (b : Byte) :
    sampledFrame (levelsSent fd b (frameLen fd)) = buildFrame fd b := by
  apply BitVec.eq_of_getLsbD_eq
  intro i hi
  rw [levelsSent, List.take_of_length_le (frameLevels_length fd _).le, sampledFrame_getLsbD _ hi]
  by_cases h : i < frameLen fd
  · rw [List.getD_eq_getElem _ _ (by rwa [frameLevels_length]), frameLevels_getElem]
  · have hfl : frameLen fd = firstStop fd + stopTicks fd.stopBits := rfl
    rw [List.getD_eq_default _ _ (by rw [frameLevels_length]; omega), buildFrame_stop fd b (by omega) (by omega)]

/-! ### A frame through the loop (42_receive.md R115) -/

/-- `s` with both sides `n` bits into the frame of `b`, one sending and one receiving it. -/
def looping (b : Byte) (n : Nat) (s : State) : State := sampled (levelsSent s.fd b n) (sending b n s)

/-- What bit-time `n` of the frame of `b` leaves of `s` besides the two sides: the line, and the count of two inputs. -/
def bitTime (b : Byte) (n : Nat) (s : State) : State := { driving b n s with draws := s.draws + 2 }

@[simp] theorem bitTime_fd (b : Byte) (n : Nat) (s : State) : (bitTime b n s).fd = s.fd := rfl
@[simp] theorem bitTime_empty (b : Byte) (n : Nat) (s : State) : (bitTime b n s).empty = s.empty := rfl
@[simp] theorem bitTime_rxActive (b : Byte) (n : Nat) (s : State) : (bitTime b n s).rxActive = s.rxActive := rfl
@[simp] theorem bitTime_delivered (b : Byte) (n : Nat) (s : State) : (bitTime b n s).delivered = s.delivered := rfl
@[simp] theorem bitTime_txOut (b : Byte) (n : Nat) (s : State) :
    (bitTime b n s).txOut = (buildFrame s.fd b).getLsbD n := rfl

theorem bitTime_running (hr : s.Running) (b : Byte) (n : Nat) : (bitTime b n s).Running := ⟨hr.started, hr.fault⟩

theorem looping_running (hr : s.Running) (b : Byte) (n : Nat) : (looping b n s).Running := ⟨hr.started, hr.fault⟩

theorem drive_sending_mid (h : n + 1 < frameLen s.fd) : drive (sending b n s) = sending b (n + 1) (bitTime b n s) :=
  congrArg State.counted (txTick_sending_mid (s := s.counted) h)

theorem drive_sending_last (he : s.empty = true) (h : n + 1 = frameLen s.fd) :
    drive (sending b n s) = sent b (bitTime b n s) :=
  congrArg State.counted (txTick_sending_last (s := s.counted) he h)

/-- The first bit-time drives the start bit, which the receiver detects. -/
theorem loopBack_start (hr : s.Running) (ha : s.rxActive = false) (b : Byte) (m : Nat) :
    loopBack (m + 1) (txLoad b s) = loopBack m (looping b 1 (bitTime b 0 s)) := by
  have hd : drive (txLoad b s) = sending b 1 (bitTime b 0 s) := drive_sending_mid (one_lt_frameLen s.fd)
  rw [loopBack_succ (txLoad_running hr b), hd, sending_txOut, bitTime_txOut, buildFrame_start,
    rxTick_start (by rw [sending_rxActive, bitTime_rxActive, ha]), startFrame_eq, looping, bitTime_fd, levelsSent_one]

/-- A bit-time inside the frame takes both sides one bit on. -/
theorem loopBack_mid (hr : s.Running) (b : Byte) (m : Nat) (h : n + 1 < frameLen s.fd) :
    loopBack (m + 1) (looping b n s) = loopBack m (looping b (n + 1) (bitTime b n s)) := by
  have hlen := levelsSent_length (fd := s.fd) (n := n) b (by omega)
  rw [loopBack_succ (looping_running hr b n), looping, drive_sampled, drive_sending_mid h,
    rxTick_sampled_mid _ (by rwa [hlen, sending_fd, bitTime_fd]), sampled_txOut, sending_txOut, bitTime_txOut,
    ← levelsSent_succ b (by omega), looping, bitTime_fd]

theorem rxDone_sampled_delivered (vs : List Level) (s : State) :
    (rxDone (sampled vs s)).delivered = s.delivered ++ [extractFrame s.fd (sampledFrame vs)] := rfl

/-- A receiver that completes a frame while the transmit side owes nothing leaves a quiescent engine. -/
theorem rxDone_sampled_quiescent (vs : List Level) (hf : s.fault = none) (ha : s.txActive = false) (he : s.empty = true) :
    (rxDone (sampled vs s)).Quiescent := ⟨hf, ha, he, rfl⟩

/-- The last bit-time of the frame delivers its byte, and both sides are idle again. -/
theorem loopBack_last (hr : s.Running) (he : s.empty = true) (h : n + 1 = frameLen s.fd) :
    ∃ u, loopBack 1 (looping b n s) = .next u ∧ u.delivered = s.delivered ++ [⟨sentByte s.fd b, 0b00#2⟩] ∧
      u.Quiescent := by
  have hlen := levelsSent_length (fd := s.fd) (n := n) b (by omega)
  rw [loopBack_succ (looping_running hr b n), looping, drive_sampled, drive_sending_last he h,
    rxTick_sampled_last _ (by rwa [hlen, sent_fd, bitTime_fd]), sampled_txOut, sent_txOut, bitTime_txOut,
    ← levelsSent_succ b (by omega), h]
  refine ⟨_, rfl, ?_, rxDone_sampled_quiescent _ hr.fault rfl (by rwa [sent_empty, bitTime_empty])⟩
  rw [rxDone_sampled_delivered, sent_delivered, bitTime_delivered, sent_fd, bitTime_fd, sampledFrame_levelsSent,
    extractFrame_buildFrame]

/-- Before the end of the frame nothing is delivered. -/
theorem loopBack_part (hr : s.Running) (h : n + m < frameLen s.fd) :
    ∃ v, loopBack m (looping b n s) = .next v ∧ v.delivered = s.delivered := by
  induction m generalizing n s with
  | zero => exact ⟨_, rfl, rfl⟩
  | succ m ih =>
    rw [loopBack_mid hr b m (by omega)]
    exact ih (bitTime_running hr b n) (show n + 1 + m < frameLen s.fd by omega)

/-- The bit-times that the frame still takes deliver it. -/
theorem loopBack_rest (hr : s.Running) (he : s.empty = true) (h : n + (m + 1) = frameLen s.fd) :
    ∃ u, loopBack (m + 1) (looping b n s) = .next u ∧ u.delivered = s.delivered ++ [⟨sentByte s.fd b, 0b00#2⟩] ∧
      u.Quiescent := by
  induction m generalizing n s with
  | zero => exact loopBack_last hr he h
  | succ m ih =>
    rw [loopBack_mid hr b _ (by omega)]
    exact ih (bitTime_running hr b n) he (show n + 1 + (m + 1) = frameLen s.fd by omega)

/-- Settles O54: ENQ loads the frame, the first bit-time starts it on both sides, the rest completes it. -/
theorem loopbackDeliversEveryByte : Obligations.LoopbackDeliversEveryByte := by
  intro s b hi hs hq
  obtain ⟨hf, htx, he, hrx⟩ := hq
  have hr : s.counted.Running := counted_running ⟨hs, hf⟩
  have henq : exec (.enq b) s.counted = .next (txLoad b s.counted) := by
    rw [exec_enq hr b hi.lawful.emptyFlag, enqueue_of_idle (s := s.counted) he htx]
  obtain ⟨m, hm⟩ : ∃ m, frameLen s.fd = m + 1 + 1 := Nat.exists_eq_add_of_le' (one_lt_frameLen s.fd)
  obtain ⟨u, hu⟩ := loopBack_rest (b := b) (n := 1) (m := m) (bitTime_running hr b 0) he
    (show 1 + (m + 1) = frameLen s.fd by omega)
  rw [← loopBack_start hr hrx b, ← hm] at hu
  refine ⟨txLoad b s.counted, u, (applyInput_encode _ s).trans henq, fun n hn => ?_, hu⟩
  cases n with
  | zero => exact ⟨_, rfl, rfl⟩
  | succ n =>
    rw [loopBack_start hr hrx]
    exact loopBack_part (bitTime_running hr b 0) (show 1 + n < frameLen s.fd by omega)

end Sys2Proof.Machine
end

section
/-! Contract violations: what raising one changes, what a faulted engine does, and that within the contract none is raised. -/

namespace Sys2Proof.Machine

variable {s t : State} {i : Instr}

/-! ### Raising a fault (60_exceptions.md R126) -/

/-- An operation that answers a next state keeps the engine running or changes nothing but the fault it records. -/
theorem exec_running_or_raises (h : exec i s = .next t) : t.Running ∨ ∃ kind, t = { s with fault := some kind } := by
  obtain ⟨hr, ⟨w, -, -, rfl⟩ | ⟨w, -, -, rfl⟩ | ⟨b, -, -, rfl⟩ | ⟨b, -, -, -, rfl⟩ | ⟨-, rfl⟩ | ⟨v, -, rfl⟩⟩ := exec_next h
  · exact .inl (configure_running hr w)
  · exact .inr ⟨_, rfl⟩
  · exact .inl (enqueue_running hr b)
  · exact .inr ⟨_, rfl⟩
  · exact .inl (txTick_running hr)
  · exact .inl (rxTick_running hr v)

/-- Settles O31: an operation needs a running engine, so of what a step can do from a faulted state, a restore aside, only an
idle input and RESET are left. -/
theorem faultsArePreciseAndOnlyResetClearsThem : Obligations.FaultsArePreciseAndOnlyResetClearsThem := by
  refine ⟨fun s i kind hs hf => exec_faulted hs hf i, fun s t i h hf => ?_, fun s t x rest hp hx h hf => ?_,
    fun s hf => ⟨fun hq => hf hq.fault, fun hd => hf hd.quiescent.fault⟩⟩
  · rcases exec_running_or_raises h with hr | ⟨kind, rfl⟩
    · exact absurd hr.fault hf
    · rfl
  · rcases step_next h with ⟨hnil, -⟩ | ⟨y, rest', hp', hy⟩
    · cases hp.symm.trans hnil
    · cases hp.symm.trans hp'
      rcases hy with ⟨-, rfl⟩ | ⟨ha, rfl⟩ | ⟨i, -, he⟩ | ⟨c, o, hxr, -, -⟩
      · exact .inl rfl
      · exact .inr ⟨(applyReset_running _).fault, ha⟩
      · exact absurd (running_of_exec_next he).fault hf
      · exact absurd hxr (hx c o)

/-! ### Within the contract (60_exceptions.md R127, R128) -/

/-- The only conditions an operation asserts are that its configuration word is valid and that the flag agrees with the
indices (I2). -/
theorem exec_of_wellFormed (hr : s.Running) (hw : i.wellFormed = true) (hp : s.empty = true → s.head = s.tail) :
    ∃ t, exec i s = .next t ∧ t.Running := by
  cases i with
  | cfg w => exact ⟨_, exec_cfg_valid hr hw, configure_running hr w⟩
  | enq b => exact ⟨_, exec_enq hr b hp, enqueue_running hr b⟩
  | txtick => exact ⟨_, exec_txtick hr, txTick_running hr⟩
  | rxtick v => exact ⟨_, exec_rxtick hr v, rxTick_running hr v⟩

/-- An operation keeps the state lawful and the inputs to come as they are. -/
theorem exec_inv (hi : s.Inv) (h : exec i s = .next t) : t.Inv where
  lawful := exec_lawful hi.lawful h
  pending := exec_pending h ▸ hi.pending

/-- Settles O32: a lawful state has I2, which is all that `exec_of_wellFormed` asks of it. -/
theorem contractOperationsNeverFault : Obligations.ContractOperationsNeverFault := by
  intro s i hi hr hw
  obtain ⟨t, h, ht⟩ := exec_of_wellFormed hr hw hi.lawful.emptyFlag
  exact ⟨t, h, ht, exec_inv hi h⟩

end Sys2Proof.Machine
end

section
/-! RESET from any state, the end of a run, the restored transmitter that never starts, and the queue sent to its end. -/

namespace Sys2Proof.Machine

variable {s t : State}

/-! ### The queue sent to its end (70_reset_and_hazards.md R150) -/

/-- Ticks in two parts: the levels of the second follow those of the first. -/
theorem transmitTicks_add {m n : Nat} {ls ls' : List Level} {u : State} (hr : s.Running)
    (h : transmitTicks m s = some (ls, t)) (h' : transmitTicks n t = some (ls', u)) :
    transmitTicks (m + n) s = some (ls ++ ls', u) := by
  induction m generalizing s ls with
  | zero =>
    cases h
    rwa [Nat.zero_add]
  | succ m ih =>
    rw [transmitTicks_succ hr] at h
    obtain ⟨⟨ls₁, t₁⟩, h₁, e⟩ := Option.map_eq_some_iff.mp h
    cases e
    rw [Nat.add_right_comm, transmitTicks_succ hr, ih (txTick_running hr) h₁]
    rfl

/-- `transmitTicks_to_frame_end` with its number of ticks written out. -/
theorem transmitTicks_rest_of_frame (hl : s.Lawful) (hr : s.Running) (ha : s.txActive = true) :
    transmitTicks (frameLen s.fd - s.txPos.toNat) s =
      some ((frameLevels s.fd s.txFrame).drop s.txPos.toNat, frameDone s) :=
  transmitTicks_to_frame_end hl hr ha (Nat.add_sub_of_le (Nat.le_of_lt (hl.shiftPos ha)))

theorem dequeue_lawful (h : s.Lawful) (ha : s.txActive = true) : (dequeue s).Lawful :=
  { h with
    indices := ⟨slot_lt_capacity _, slot_lt_capacity _⟩
    emptyFlag := fun hm => eq_of_beq hm
    idleEmpty := fun hi => Bool.noConfusion (ha.symm.trans hi) }

/-- A frame completed with `b` first in the queue: `b` is in flight from position 0 and the rest of the queue stays, so that
the next frame follows with nothing between (41_transmit.md R98, R102). -/
theorem frameDone_with_queue (hl : s.Lawful) {b : Byte} {q : List Byte} (hq : queuedBytes s = b :: q) :
    queuedBytes (frameDone s) = q ∧ (frameDone s).txActive = true ∧ (frameDone s).txFrame = buildFrame s.fd b ∧
      (frameDone s).txPos = 0 ∧ (frameDone s).fd = s.fd ∧ (frameDone s).Lawful := by
  have he : s.empty = false := by
    rw [← Bool.not_eq_true, ← queuedBytes_eq_nil_iff hl.emptyFlag, hq]
    exact List.cons_ne_nil b q
  obtain ⟨rfl, rfl⟩ := List.cons.inj ((queuedBytes_of_queued he).symm.trans hq)
  have hmark : ({ s with txOut := mark } : State).Lawful := { hl with idleLine := fun _ => rfl }
  rw [frameDone_of_queued he]
  exact ⟨rfl, rfl, rfl, rfl, rfl, dequeue_lawful (txLoad_lawful hmark _) rfl⟩

theorem frameDone_running (hr : s.Running) : (frameDone s).Running := by
  cases he : s.empty with
  | true => rw [frameDone_of_empty he]; exact ⟨hr.started, hr.fault⟩
  | false => rw [frameDone_of_queued he]; exact ⟨hr.started, hr.fault⟩

/-- A Shifting transmitter sends what is left of its frame and then one whole frame for each queued byte. -/
theorem transmitTicks_drain (q : List Byte) (hl : s.Lawful) (hr : s.Running) (ha : s.txActive = true)
    (hq : queuedBytes s = q) :
    ∃ u, transmitTicks (frameLen s.fd - s.txPos.toNat + q.length * frameLen s.fd) s =
        some ((frameLevels s.fd s.txFrame).drop s.txPos.toNat ++
          q.flatMap (fun b => frameLevels s.fd (buildFrame s.fd b)), u) ∧
      u.txActive = false ∧ u.empty = true ∧ u.txOut = mark := by
  induction q generalizing s with
  | nil =>
    have he := (queuedBytes_eq_nil_iff hl.emptyFlag).mp hq
    refine ⟨frameDone s, ?_, ?_⟩
    · simpa using transmitTicks_rest_of_frame hl hr ha
    · rw [frameDone_of_empty he]
      exact ⟨rfl, he, rfl⟩
  | cons b q ih =>
    obtain ⟨hq', ha', hf, hp, hfd, hl'⟩ := frameDone_with_queue hl hq
    obtain ⟨u, hu, hidle⟩ := ih hl' (frameDone_running hr) ha' hq'
    refine ⟨u, ?_, hidle⟩
    rw [hf, hp, hfd] at hu
    rw [List.length_cons, Nat.succ_mul, Nat.add_comm (q.length * _)]
    exact transmitTicks_add hr (transmitTicks_rest_of_frame hl hr ha) hu

/-- Settles O56: the frame in flight and each queued one take their ticks in turn, by `transmitTicks_drain`. -/
theorem theQueueDrainsInBoundedTicks : Obligations.TheQueueDrainsInBoundedTicks := by
  intro s hi hr ha
  have hp := hi.lawful.shiftPos ha
  have hn : (fifoCount s + 1) * frameLen s.fd - s.txPos.toNat =
      frameLen s.fd - s.txPos.toNat + (queuedBytes s).length * frameLen s.fd := by
    rw [queuedBytes_length, Nat.succ_mul]
    omega
  rw [hn]
  exact transmitTicks_drain (queuedBytes s) hi.lawful hr ha rfl

/-! ### A restored transmitter that never starts (70_reset_and_hazards.md R154) -/

/-- The append branch of ENQ leaves the queued bytes in front, whatever form the memory is in (41_transmit.md R94). -/
theorem queuedBytes_prefix_append (hp : s.empty = true → s.head = s.tail) (hroom : fifoCount s < 16) (b : Byte) :
    queuedBytes s <+: queuedBytes (append b s) := by
  have hrest : ∀ k ∈ List.range (fifoCount s), memRead s.fifo (s.head + BitVec.ofNat 4 k) =
      memRead (append b s).fifo (s.head + BitVec.ofNat 4 k) := fun k hk =>
    (memRead_memWrite_other _ (head_add_ne_tail hp hroom (List.mem_range.mp hk)) b).symm
  rw [queuedBytes_eq, queuedBytes_eq, fifoCount_append hp hroom, append_head, List.range_succ, List.map_append,
    List.map_congr_left hrest]
  exact List.prefix_append _ _

/-- ENQ with bytes queued appends or drops: it never starts the transmitter (41_transmit.md R93 to R95). -/
theorem enqueue_with_queue (he : s.empty = false) (b : Byte) :
    (enqueue b s).txActive = s.txActive ∧ (enqueue b s).empty = false ∧
      queuedBytes s <+: queuedBytes (enqueue b s) ∧ (enqueue b s).txOut = s.txOut := by
  by_cases ht : s.head = s.tail
  · rw [enqueue_of_full he ht]
    exact ⟨rfl, he, List.prefix_refl _, rfl⟩
  · obtain ⟨hp, hroom, e⟩ := enqueue_of_append_condition b (.inr ⟨he, ht⟩)
    rw [e]
    exact ⟨rfl, rfl, queuedBytes_prefix_append hp hroom b, rfl⟩

/-- Settles O40: ENQ by `enqueue_with_queue`, its fault needs an empty FIFO, TXTICK does nothing while Idle, and RXTICK writes
nothing of the transmit side. -/
theorem idleTransmitterWithQueuedBytesIsStuck : Obligations.IdleTransmitterWithQueuedBytesIsStuck := by
  intro s t i ha he hi h
  obtain ⟨-, ⟨w, rfl, -, -⟩ | ⟨w, rfl, -, -⟩ | ⟨b, -, -, rfl⟩ | ⟨b, -, he', -, -⟩ | ⟨-, rfl⟩ | ⟨v, -, rfl⟩⟩ := exec_next h
  · exact absurd rfl (hi w)
  · exact absurd rfl (hi w)
  · obtain ⟨ha', hrest⟩ := enqueue_with_queue he b
    exact ⟨ha'.trans ha, hrest⟩
  · exact Bool.noConfusion (he.symm.trans he')
  · rw [txTick_idle ha]
    exact ⟨ha, he, List.prefix_refl _, rfl⟩
  · rw [queuedBytes_rxTick, rxTick_writes]
    exact ⟨ha, he, List.prefix_refl _, rfl⟩

/-! ### RESET (70_reset_and_hazards.md R144) -/

/-- The reset pin alone applies RESET, whatever the state. -/
theorem step_of_reset_pin {p : Pins} {rest : List Input} (hp : s.pending = .pins p :: rest) (h : p.strobes = [.reset]) :
    step s = .next (applyReset (taken s rest)) := by
  rw [step_of_input hp, Input.action, Pins.action_of_one_strobe h, perform]

/-- Settles O1: the step is `applyReset`, which writes the default word's configuration and clears the fault. -/
theorem resetGivesTheTabledValuesFromAnyState : Obligations.ResetGivesTheTabledValuesFromAnyState :=
  ⟨fun _ _ _ => step_of_reset_pin, memRead_memClear, by decide⟩

/-! ### The end of a run (70_reset_and_hazards.md R147) -/

/-- A tick that an idle line brings: TXTICK, or RXTICK of a mark. -/
def IsIdleTick (i : Instr) : Prop := i = .txtick ∨ i = .rxtick mark

/-- With both engines idle such a tick changes nothing. -/
theorem exec_idle_tick {i : Instr} (hs : s.started = true) (h : s.Quiescent) (hi : IsIdleTick i) :
    exec i s = .next s := by
  rcases hi with rfl | rfl
  · rw [exec_txtick ⟨hs, h.fault⟩, txTick_idle h.txActive]
  · rw [exec_rxtick ⟨hs, h.fault⟩, rxTick_idle h.rxActive]

/-- A step of a finished run that takes such a tick takes its input and changes nothing else. -/
theorem step_of_idle_tick {x : Input} {rest : List Input} {i : Instr} (hs : s.started = true) (h : s.Finished)
    (hp : s.pending = x :: rest) (hx : x.action = .run i) (hi : IsIdleTick i) : step s = .next (taken s rest) := by
  rw [step_of_input hp, hx, perform]
  exact exec_idle_tick hs (finished_taken h hp).quiescent hi

/-- An input that brings work is not to come in a finished run. -/
theorem not_finished_of_work {x : Input} (hx : x ∈ s.pending) (hw : x.bringsWork = true) : ¬ s.Finished :=
  fun h => Bool.noConfusion (hw.symm.trans (h.noWork x hx))

/-- Settles O39: idle ticks by `exec_idle_tick`; what is not finished contradicts one field of `Finished` each. -/
theorem quiescenceIsStable : Obligations.QuiescenceIsStable := by
  refine ⟨fun s hs hq => ⟨exec_idle_tick hs hq (.inl rfl), exec_idle_tick hs hq (.inr rfl), fifoCount_of_empty hq.empty⟩,
    fun s x rest hs hf hp hx => ⟨taken s rest, ?_, rfl, finished_taken hf hp⟩, fun s x b w hm hx => ?_, fun s hx hf => ?_⟩
  · rcases hx with hx | hx
    · exact step_of_idle_tick hs hf hp hx (.inl rfl)
    · exact step_of_idle_tick hs hf hp hx (.inr rfl)
  · rcases hx with hx | hx
    · exact not_finished_of_work hm (bringsWork_of_enq hx)
    · exact not_finished_of_work hm (bringsWork_of_cfg hx)
  · obtain ⟨hfault, htx, hempty, hrx⟩ := hf.quiescent
    rcases hx with hx | hx | hx | hx
    · exact hx hfault
    · exact Bool.noConfusion (htx.symm.trans hx)
    · exact Bool.noConfusion (hempty.symm.trans hx)
    · exact Bool.noConfusion (hrx.symm.trans hx)

end Sys2Proof.Machine
end

section
/-! The edges the model completes by its own choice: steps before the first RESET (log 4), and ticks at a position that only a
restore can write (log 8). -/

namespace Sys2Proof.Machine

variable {s : State}

/-- Settles O4: of what `step_next` allows, a run instruction needs a running engine and a restore a started one. -/
theorem nothingButResetStepsBeforeTheFirstReset : Obligations.NothingButResetStepsBeforeTheFirstReset := by
  intro s t x rest hs hp h
  rcases step_next h with ⟨hnil, -⟩ | ⟨y, rest', hy, hstep⟩
  · exact absurd (hp.symm.trans hnil) (List.cons_ne_nil x rest)
  · obtain ⟨rfl, rfl⟩ := List.cons.inj (hp.symm.trans hy)
    rcases hstep with hidle | ⟨hreset, -⟩ | ⟨i, -, hexec⟩ | ⟨c, o, -, hstarted, -⟩
    · exact .inr hidle
    · exact .inl hreset
    · exact Bool.noConfusion (hs.symm.trans (running_of_exec_next hexec).started)
    · exact Bool.noConfusion (hs.symm.trans hstarted)

/-! ### Ticks at a position the register lacks (10_state.md section 1) -/

/-- No frame ends past the register: after a position of 12 or above the counter is beyond every frame length. -/
theorem succ_ne_frameLen_of_twelve_le {n : Nat} (h : 12 ≤ n) (fd : FrameDescriptor) : n + 1 ≠ frameLen fd := by
  have := (frameLen_bounds fd).2
  omega

/-- Below 15 the transmit tick drives a level and counts; it loads nothing and ends nothing. -/
theorem txTick_beyond_register (ha : s.txActive = true) (hp : 12 ≤ s.txPos.toNat) (hlt : s.txPos.toNat < 15) :
    txTick s = { s with txOut := (txTick s).txOut, txPos := s.txPos + 1 } := by
  rw [txTick_mid ha hlt (succ_ne_frameLen_of_twelve_le hp s.fd), shiftOut, nextPosition_eq s.draws hlt]

/-- Settles O20: TXTICK completes on every running engine, and below 15 by `txTick_beyond_register`. -/
theorem transmitTickCompletesAtEveryPosition : Obligations.TransmitTickCompletesAtEveryPosition :=
  fun s hr ha hp => ⟨txTick s, exec_txtick hr, txTick_beyond_register ha hp⟩

/-- Below 15 the receive tick writes its register and counts; it delivers nothing. -/
theorem rxTick_beyond_register (v : Level) (ha : s.rxActive = true) (hp : 12 ≤ s.rxPos.toNat) (hlt : s.rxPos.toNat < 15) :
    rxTick v s = { s with rxFrame := (rxTick v s).rxFrame, rxPos := s.rxPos + 1 } := by
  rw [rxTick_mid v ha hlt (succ_ne_frameLen_of_twelve_le hp s.fd), shiftIn, nextPosition_eq s.draws hlt]

/-- Settles O23: RXTICK completes on every running engine, and below 15 by `rxTick_beyond_register`. -/
theorem receiveTickCompletesAtEveryPosition : Obligations.ReceiveTickCompletesAtEveryPosition :=
  fun s v hr ha hp => ⟨rxTick v s, exec_rxtick hr v, rxTick_beyond_register v ha hp⟩

end Sys2Proof.Machine
end
